-- ==== Sys2Proof/Word.lean ====
section
/-! DEFINITION. The word types of the block (spec/00_scope.md R6, R7): every value is an unsigned bit vector of the width stated. -/

namespace Sys2Proof

/-- A byte of HOSTMEM, a pushed byte, a segment length (R6: NBYTES width 8). -/
abbrev Byte := BitVec 8

/-- A 32-bit register word (R21). -/
abbrev Word := BitVec 32

/-- A host byte address; `+` wraps modulo 2^32 (R62, R73). -/
abbrev Addr := BitVec 32

/-- An op word of the operation port (R81). -/
abbrev OpWord := BitVec 16

/-- A 7-bit target address (R6). -/
abbrev Target := BitVec 7

end Sys2Proof
end

