-- ==== Sys2Proof/Config.lean ====
section
/-! DEFINITION. What an implementation fixes and what the spec leaves open: the OPEN parameters of spec/00_scope.md R6, the
moves the environment can make (R5), and the free values. No constant here has a value that a proof can see. -/

namespace Sys2Proof

/-- The controller's response to a final segment of length 0 (R6, R117, D19). -/
inductive EmptyFinal where
  | stop
  | stall
  deriving DecidableEq, Repr, Inhabited

/-- The device's answer to one byte on the bus (R42). -/
inductive Ack where
  | ack
  | nack
  deriving DecidableEq, Repr, Inhabited

/-- The width of a HOST access: 1, 2, 4 or 8 bytes. Registers take `word` only (R65). -/
inductive Width where
  | byte
  | half
  | word
  | dword
  deriving DecidableEq, Repr, Inhabited

/-- One access by HOST. `wr` and `rd` name a register by its offset from ENGINE_BASE (R21, R87); `store` and `load` name a
host byte address, which is routed to a register or to HOSTMEM (R61). The data of an access narrower than 64 bits is its low
part. -/
inductive HostMove where
  | wr (off : Nat) (width : Width) (v : BitVec 64)
  | rd (off : Nat) (width : Width)
  | store (a : Addr) (width : Width) (v : BitVec 64)
  | load (a : Addr) (width : Width)
  deriving DecidableEq, Repr, Inhabited

/-- One step of the block's own agents and its reset input (R5, R236). `engine` carries the draw used if the step reads a
byte that HOST has overwritten during the request (R70); `bus` carries the device's answer (R120). -/
inductive BlockMove where
  | engine (draw : Nat)
  | bus (answer : Ack)
  | host (h : HostMove)
  | reset
  deriving DecidableEq, Repr, Inhabited

namespace Config

/-- CTRL_BASE divided by 1024 (OPEN, D10). -/
opaque ctrlPage : BitVec 22

/-- Which of the 2^27 - 2 placements that R67 admits beside CTRL's block ENGINE's block has (OPEN, D2). -/
opaque enginePlace : Fin 134217726

/-- NACK_RELEASES_BUS (OPEN, D18). -/
opaque nackReleasesBus : Bool

/-- EMPTY_FINAL_SEGMENT (OPEN, D19). -/
opaque emptyFinalSegment : EmptyFinal

/-- The launch memory's admission of each byte (R68). -/
opaque admits : Addr → Bool

/-- Free value: the power-on contents of HOSTMEM (notes/assumptions/8.md). -/
opaque ramAtPowerOn : Addr → Byte

/-- Free value: the unmodelled ISR bits, one word per read (notes/assumptions/17.md). -/
opaque isrFree : Nat → Word

/-- Free value: what a read of TXDR returns, one word per read (notes/assumptions/27.md). -/
opaque txdrFree : Nat → Word

/-- Free value: bits [9:8] and [0] of CR2.SADD after a write that sets any of them (notes/assumptions/26.md). -/
opaque saddFree : Nat → BitVec 3

/-- Free value: the order of the agents' steps, the device's answers and the host's accesses (notes/assumptions/1.md). -/
opaque environment : Nat → BlockMove

end Config

end Sys2Proof
end

