-- ==== Sys2Proof/Machine/Params.lean ====
section
/-! DEFINITION. The placements of the two register blocks (spec/20_memory.md R67) and the parameters of a block
(spec/00_scope.md R6). -/

namespace Sys2Proof.Machine

/-- The number of bytes of ENGINE's register block (R21, R67). -/
def engineBlockBytes : Nat := 0x20

/-- The number of bytes of CTRL's register block, from its base to the end of TXDR at 0x28 (R40, R61;
notes/assumptions/11.md). -/
def ctrlBlockBytes : Nat := 0x2C

/-- The `n` bytes from `a` and the `m` bytes from `b`, both modulo 2^32, have a byte in common. -/
def arcsMeet (a : Addr) (n : Nat) (b : Addr) (m : Nat) : Bool :=
  n != 0 && m != 0 && (decide ((b - a).toNat < n) || decide ((a - b).toNat < m))

/-- The block number of ENGINE_BASE at placement `place`: the two blocks of 32 bytes that overlap CTRL's registers, the first
two of CTRL's page, are left out (R67). -/
def engineBlock (page : BitVec 22) (place : Fin 134217726) : Nat :=
  if place.val < 32 * page.toNat then place.val else place.val + 2

/-- ENGINE_BASE at placement `place`. -/
def engineBaseAt (page : BitVec 22) (place : Fin 134217726) : Addr := BitVec.ofNat 32 (32 * engineBlock page place)

/-- CTRL_BASE at page `page`. -/
def ctrlBaseAt (page : BitVec 22) : Addr := BitVec.ofNat 32 (1024 * page.toNat)

/-- CTRL_BASE is 1 KiB aligned. -/
theorem ctrlBaseAt_aligned (page : BitVec 22) : (ctrlBaseAt page).toNat % 1024 = 0 := by
  simp only [ctrlBaseAt, BitVec.toNat_ofNat]; omega

/-- ENGINE_BASE is 32-byte aligned. -/
theorem engineBaseAt_aligned (page : BitVec 22) (place : Fin 134217726) : (engineBaseAt page place).toNat % 32 = 0 := by
  simp only [engineBaseAt, BitVec.toNat_ofNat]; omega

/-- No placement puts ENGINE's block over CTRL's. -/
theorem engineBaseAt_apart (page : BitVec 22) (place : Fin 134217726) :
    arcsMeet (engineBaseAt page place) engineBlockBytes (ctrlBaseAt page) ctrlBlockBytes = false := by
  have hp := page.isLt
  have hk := place.isLt
  have h1 : ¬ (ctrlBaseAt page - engineBaseAt page place).toNat < engineBlockBytes := by
    simp only [ctrlBaseAt, engineBaseAt, engineBlock, engineBlockBytes, BitVec.toNat_sub, BitVec.toNat_ofNat]
    split_ifs <;> omega
  have h2 : ¬ (engineBaseAt page place - ctrlBaseAt page).toNat < ctrlBlockBytes := by
    simp only [ctrlBaseAt, engineBaseAt, engineBlock, ctrlBlockBytes, BitVec.toNat_sub, BitVec.toNat_ofNat]
    split_ifs <;> omega
  rw [arcsMeet, decide_eq_false h1, decide_eq_false h2, Bool.or_false, Bool.and_false]

/-- The parameters and free values a model of the block takes as an argument (R6). The last three fields admit the aligned
placements of R67 and no others. -/
structure Params where
  /-- ENGINE_BASE -/
  engineBase : Addr
  /-- CTRL_BASE -/
  ctrlBase : Addr
  /-- NACK_RELEASES_BUS (R119, D18) -/
  nackReleasesBus : Bool
  /-- EMPTY_FINAL_SEGMENT (R117, D19) -/
  emptyFinalSegment : EmptyFinal
  /-- the launch memory: which HOSTMEM bytes a MemRead may read (R68) -/
  admits : Addr → Bool
  /-- what a HOSTMEM byte that nothing has written holds: not stated by the spec (notes/assumptions/8.md) -/
  ramAtPowerOn : Addr → Byte
  /-- the ISR bits the block does not have, one word per read (R38, U20) -/
  isrFree : Nat → Word
  /-- what a read of TXDR returns (notes/assumptions/27.md) -/
  txdrFree : Nat → Word
  /-- bits [9:8] and [0] of CR2.SADD after a write that sets any of them (notes/assumptions/26.md) -/
  saddFree : Nat → BitVec 3
  /-- the step taken next when no move is queued (R5: any enabled step may be taken next) -/
  environment : Nat → BlockMove
  /-- ENGINE_BASE is 32-byte aligned (R6) -/
  engineAligned : engineBase.toNat % 32 = 0
  /-- CTRL_BASE is 1 KiB aligned (R6) -/
  ctrlAligned : ctrlBase.toNat % 1024 = 0
  /-- ENGINE's block does not overlap CTRL's (R67) -/
  apart : arcsMeet engineBase engineBlockBytes ctrlBase ctrlBlockBytes = false

end Sys2Proof.Machine

/-- The machine's parameters, at one of the placements that R67 admits. -/
def Sys2Proof.Config.params : Sys2Proof.Machine.Params where
  engineBase := Machine.engineBaseAt ctrlPage enginePlace
  ctrlBase := Machine.ctrlBaseAt ctrlPage
  nackReleasesBus := nackReleasesBus
  emptyFinalSegment := emptyFinalSegment
  admits := admits
  ramAtPowerOn := ramAtPowerOn
  isrFree := isrFree
  txdrFree := txdrFree
  saddFree := saddFree
  environment := environment
  engineAligned := Machine.engineBaseAt_aligned ctrlPage enginePlace
  ctrlAligned := Machine.ctrlBaseAt_aligned ctrlPage
  apart := Machine.engineBaseAt_apart ctrlPage enginePlace
end

