-- ==== Sys2Proof/Syntax.lean ====
section
/-! DEFINITION. The instructions: one constructor per row of spec/opcode_table.json (spec/30_encoding.md R83, R84, R86). -/

namespace Sys2Proof

/-- The twelve op words of the operation port and the host command GO. Operand types have exactly the width of the
operand sub-field (R83), so no operand is out of range. -/
inductive Instr where
  /-- SETADDR a7: set target address (R102) -/
  | setaddr (a : Target)
  /-- SETDIR d: 0 = write, 1 = read (R103) -/
  | setdir (d : Bool)
  /-- SETNBYTES n8: set segment length (R104) -/
  | setnbytes (n : Byte)
  /-- SETAUTOEND e: enable or disable auto-stop (R105) -/
  | setautoend (e : Bool)
  /-- SETRELOAD r: set or clear reload mode (R106) -/
  | setreload (r : Bool)
  /-- START: start a transaction (R107) -/
  | start
  /-- POLLTXIS: poll ready-to-send (R108) -/
  | polltxis
  /-- POLLTCR: poll reload-required (R109) -/
  | polltcr
  /-- POLLNACK: poll rejected (R110) -/
  | pollnack
  /-- CLRNACK: clear the rejection flag (R111) -/
  | clrnack
  /-- POLLBUSY: poll bus busy (R112) -/
  | pollbusy
  /-- PUSH b8: push one byte (R113) -/
  | push (b : Byte)
  /-- GO: the host command write_with_header (R151) -/
  | go
  deriving DecidableEq, Repr

end Sys2Proof
end

