-- ==== Sys2Proof/Machine/State.lean ====
section
/-! DEFINITION. The state of the block as plain data (spec/10_state.md), and its value right after reset (R44). -/

namespace Sys2Proof.Machine

/-- The host's request registers (R22 to R26). CMD holds no state (R27); STATUS and PUSHED are computed (R28, R30). -/
structure HostRegs where
  addr : Target
  hdrPtr : Word
  hdrLen : Word
  payPtr : Word
  payLen : Word
  deriving DecidableEq, Repr

/-- The cause code of a Rejected outcome (R28): 0 NONE, 1 HDR_TOO_LONG, 2 BUS_BUSY, 3 NACK. -/
inductive Cause where
  | noCause
  | hdrTooLong
  | busBusy
  | nack
  deriving DecidableEq, Repr

/-- The micro-states of R33, codes 0 to 20 in this order. Codes 21 to 31 are never held. -/
inductive Micro where
  | idle
  | chkBusy
  | setAddr
  | setDir
  | setNbH
  | setAe
  | setRl
  | start
  | hNack
  | hTx
  | hPush
  | rpTcr
  | pSetNb
  | pClrRl
  | pNack
  | pTx
  | pPush
  | rjClrN
  | rjClrRl
  | doneC
  | doneR
  deriving DecidableEq, Repr

/-- ENGINE's datapath and sequencing registers (R32). -/
structure Engine where
  lAddr : Target
  lHp : Word
  lHl : Word
  lPp : Word
  lPl : Word
  seg : Byte
  rem : Word
  out : Bool
  cause : Cause
  pushed : Word
  ms : Micro
  deriving DecidableEq, Repr

/-- The hidden bus phase C.PH (R41). -/
inductive Phase where
  | free
  | addr
  | awaitTx
  | data
  | reloadWait
  | segEmpty
  | stopping
  | nackHold
  deriving DecidableEq, Repr

/-- CTRL's control fields (R35), status flags (R36) and phase (R41). -/
structure Ctrl where
  sadd7 : Target
  /-- bits [9:8] and [0] of CR2.SADD (R37): 0 but after a driver's write that sets any of them (notes/assumptions/26.md) -/
  saddRest : BitVec 3
  rdWrn : Bool
  nbytes : Byte
  autoend : Bool
  reload : Bool
  txdr : Byte
  txis : Bool
  tcr : Bool
  nackf : Bool
  busy : Bool
  phase : Phase
  deriving DecidableEq, Repr

/-- An event on the wire (R42): START, the address byte, a data byte, STOP. -/
inductive WireEvent where
  | start
  | addr (a : Target) (rw : Bool) (answer : Ack)
  | data (b : Byte) (answer : Ack)
  | stop
  deriving DecidableEq, Repr

/-- The reasons the FAULT mark can hold (R215). Each is added by the rule named, as a next state; the machine then has no
further step. -/
inductive FaultReason where
  | cfgWhileBusy
  | nbytesOpenSegment
  | nbytesNoSegment
  | reloadClearedInTcr
  | startBusy
  | startRead
  | pushNotReady
  | autoendOff
  deriving DecidableEq, Repr

/-- One entry of the op trace: the op word ENGINE issued and its response (R82, R168). -/
structure OpRecord where
  word : OpWord
  resp : Option Bool
  deriving DecidableEq, Repr

/-- HOSTMEM: the bytes written, as (address, byte) pairs in rising order of address. -/
abbrev Memory := List Host.Cell

/-- The canonical form: addresses strictly rising and below 2^32. An unlisted address has no value in the list, so no entry
can equal what an unlisted address reads as. -/
abbrev Memory.wf (m : Memory) : Prop := m.Pairwise (fun x y => x.1 < y.1) ∧ ∀ c ∈ m, c.1 < 2 ^ 32

/-- The update of one field of CR2 (R89). -/
inductive Cr2Update where
  /-- CR2.SADD[9:0] <- v -/
  | sadd (v : BitVec 10)
  /-- CR2.RD_WRN <- d -/
  | rdWrn (d : Bool)
  /-- CR2.NBYTES <- n -/
  | nbytes (n : Byte)
  /-- CR2.AUTOEND <- e -/
  | autoend (e : Bool)
  /-- CR2.RELOAD <- r -/
  | reload (r : Bool)
  /-- CR2.START <- 1 -/
  | start
  deriving DecidableEq, Repr

/-- One access to the concrete registers of R37 to R40 by a driver of CTRL alone: the update of one CR2 field, which R89 makes
one access, or a write or read of the register at a host byte address. -/
inductive CtrlAccess where
  | update (u : Cr2Update)
  | wr (a : Addr) (width : Width) (v : BitVec 64)
  | rd (a : Addr) (width : Width)
  deriving DecidableEq, Repr

/-- A move waiting in the queue: a step of the block, or an input of a driver of CTRL alone (R215: "a model of CTRL alone,
driven by other op traces"; notes/assumptions/3.md). -/
inductive Move where
  | block (m : BlockMove)
  | opWord (w : OpWord)
  | ctrlAccess (x : CtrlAccess)
  deriving DecidableEq, Repr

/-- Everything the spec gives the machine, and the model's own fields (INVENTORY.md, State). -/
structure State where
  /-- host registers H.* (R21 to R27) -/
  host : HostRegs
  /-- ENGINE registers E.* (R32, R33) -/
  eng : Engine
  /-- CTRL fields, flags and phase C.* (R35, R36, R41) -/
  ctl : Ctrl
  /-- the wire log W, oldest first (R42) -/
  wire : List WireEvent
  /-- the FAULT mark: a set, held as a list with no repeats (R43) -/
  fault : List FaultReason
  /-- HOSTMEM (R61) -/
  mem : Memory
  /-- the response R of the last op (R82); model's own field, notes/assumptions/14.md -/
  resp : Option Bool
  /-- the request's op trace, oldest first (R168); model observable, notes/assumptions/15.md -/
  trace : List OpRecord
  /-- the value of the last register or memory read (R87); model's own field, notes/assumptions/16.md -/
  rdata : BitVec 64
  /-- earlier values of buffer bytes overwritten during the request (R70); notes/assumptions/13.md -/
  stale : List Host.Cell
  /-- moves waiting to be taken; model's own field, notes/assumptions/1.md -/
  script : List Move
  /-- index of the next free value; model's own field, notes/assumptions/1.md -/
  tick : Nat
  deriving DecidableEq, Repr

/-- Why a step has no next state. -/
inductive Fault where
  /-- Raised by `step` in every state whose FAULT mark is not empty: "no agent has an enabled step: the state is quiescent"
  (R215). Safe: the run ends where the spec gives it no further step. -/
  | quiescent (reasons : List FaultReason)
  deriving DecidableEq, Repr

/-- Why a step has no meaning: the run is outside the model. -/
inductive Refusal where
  /-- Raised by `exec` for an instruction that has no meaning yet; no arm uses it. Safe. -/
  | notModelled (mnemonic : String)
  /-- ILLEGAL_OP: raised when an op word decodes as invalid (R85, R216, U18). Safe. -/
  | illegalOp (w : OpWord)
  /-- Raised by a HOST access to an ENGINE register, or a driver's to a CTRL register, that is sub-word, wider or misaligned
  (R65, U22). Safe. -/
  | badRegisterAccess (off : Nat) (width : Width)
  /-- Raised by a HOST access at an offset that does not belong to ENGINE's block (R21), or a driver's at an offset from
  CTRL_BASE where the spec names no register (R61; the model's choice, notes/assumptions/17.md). Safe. -/
  | noSuchRegister (off : Nat)
  /-- Raised by a HOST access to an address in CTRL's register block: HOST has no CTRL move (R122, R246). Safe. -/
  | hostTouchesCtrl (a : Addr)
  /-- Raised by an ENGINE read of a buffer that overlaps a register block (R67, U23). Safe. -/
  | bufferOverlapsRegisters
  /-- Raised by a driver's write of 1 to an ICR bit other than NACKCF (R39, U21). Safe. -/
  | icrUnmodelledBit (w : Word)
  deriving DecidableEq, Repr

/-- The outcome of a step of this machine. -/
abbrev Result := Host.Outcome State Fault Refusal

/-- The request registers after reset (R237). -/
def HostRegs.reset : HostRegs := { addr := 0, hdrPtr := 0, hdrLen := 0, payPtr := 0, payLen := 0 }

/-- ENGINE after reset (R237). -/
def Engine.reset : Engine where
  lAddr := 0
  lHp := 0
  lHl := 0
  lPp := 0
  lPl := 0
  seg := 0
  rem := 0
  out := false
  cause := .noCause
  pushed := 0
  ms := .idle

/-- CTRL after reset (R238). -/
def Ctrl.reset : Ctrl where
  sadd7 := 0
  saddRest := 0
  rdWrn := false
  nbytes := 0
  autoend := false
  reload := false
  txdr := 0
  txis := false
  tcr := false
  nackf := false
  busy := false
  phase := .free

/-- The machine right after reset (R44). The model's own fields and HOSTMEM follow notes/assumptions/7.md and 8.md. -/
def State.reset : State where
  host := HostRegs.reset
  eng := Engine.reset
  ctl := Ctrl.reset
  wire := []
  fault := []
  mem := []
  resp := none
  trace := []
  rdata := 0
  stale := []
  script := []
  tick := 0

end Sys2Proof.Machine
end

