-- ==== Sys2Proof/Machine/Ops.lean ====
section
/-! DEFINITION. The named operations over memory and registers that the meanings share: HOSTMEM bytes (spec/20_memory.md),
the FAULT mark (spec/60_exceptions.md R215), an op's answer (R82), the wire log (R42), and verdict entry, the block's analogue
of taking an exception (R220). -/

namespace Sys2Proof.Machine

/-! ### HOSTMEM -/

/-- The byte listed at address `a`, if any. -/
def Memory.read : Memory → Nat → Option Byte
  | [], _ => none
  | (k, v) :: m, a => if a = k then some v else Memory.read m a

/-- Write one byte, keeping the addresses in rising order. -/
def Memory.write : Memory → Nat → Byte → Memory
  | [], a, b => [(a, b)]
  | (k, v) :: m, a, b =>
    if a < k then (a, b) :: (k, v) :: m else if a = k then (a, b) :: m else (k, v) :: Memory.write m a b

/-- The byte of HOSTMEM at `a`: the last one written, else the power-on contents (R69; notes/assumptions/8.md). -/
def State.byteAt (p : Params) (s : State) (a : Addr) : Byte := (s.mem.read a.toNat).getD (p.ramAtPowerOn a)

/-! ### Faults and answers -/

/-- Add a reason to the FAULT mark and change nothing else (R215). -/
def State.raise (s : State) (r : FaultReason) : State :=
  { s with fault := if r ∈ s.fault then s.fault else s.fault ++ [r] }

/-- The end of an op: CTRL takes its new value and the op returns `r` (R82). -/
def State.answer (s : State) (r : Option Bool) (c : Ctrl) : State := { s with ctl := c, resp := r }

/-- An op whose precondition is `ok`: it has its effect, or it raises `r` and has none. -/
def guarded (ok : Bool) (r : FaultReason) (s t : State) : Result := .next (if ok then t else s.raise r)

/-- Append an event to the wire log (R8, R42). -/
def State.log (s : State) (ev : WireEvent) : State := { s with wire := s.wire ++ [ev] }

/-- Replace CTRL's registers. -/
def State.withCtl (s : State) (c : Ctrl) : State := { s with ctl := c }

/-- Replace ENGINE's registers. -/
def State.withEng (s : State) (e : Engine) : State := { s with eng := e }

/-- A register access is legal: naturally aligned and 32 bits wide (R65), at an offset where `find` has a register. -/
def wordAccess {R : Type} (find : Nat → Option R) (off : Nat) (width : Width) (k : R → Result) : Result :=
  if width = .word ∧ off % 4 = 0 then
    match find off with
    | some r => k r
    | none => .refused (.noSuchRegister off)
  else .refused (.badRegisterAccess off width)

/-! ### Sequencing and verdicts -/

/-- Verdict entry, Rejected (R211, R220): the cause is recorded, E.OUT keeps the 0 written at GO, ENGINE moves to M_DONER;
nothing else is saved and no vector is taken. -/
def Engine.reject (e : Engine) (c : Cause) : Engine := { e with cause := c, ms := .doneR }

/-- Verdict entry, Completed (R189, R192, R220). -/
def Engine.complete (e : Engine) : Engine := { e with out := true, ms := .doneC }

/-- A rejection seen by a byte wait (R161, R190, R214): the cause is recorded and the exit begins. -/
def Engine.abandon (e : Engine) : Engine := { e with cause := .nack, ms := .rjClrN }

/-- A request runs, H.STATUS.ACTIVE = 1 (R28): MS is not M_IDLE, M_DONEC or M_DONER. -/
def Micro.active : Micro → Bool
  | .idle | .doneC | .doneR => false
  | .chkBusy | .setAddr | .setDir | .setNbH | .setAe | .setRl | .start | .hNack | .hTx | .hPush => true
  | .rpTcr | .pSetNb | .pClrRl | .pNack | .pTx | .pPush | .rjClrN | .rjClrRl => true

/-- A verdict is given, H.STATUS.DONE = 1 (R28). -/
def Micro.done : Micro → Bool
  | .doneC | .doneR => true
  | .idle | .chkBusy | .setAddr | .setDir | .setNbH | .setAe | .setRl | .start | .hNack | .hTx | .hPush => false
  | .rpTcr | .pSetNb | .pClrRl | .pNack | .pTx | .pPush | .rjClrN | .rjClrRl => false

/-- The next state of an outcome, if it is one. -/
def nextOf : Result → Option State
  | .next s => some s
  | .fault _ => none
  | .refused _ => none

end Sys2Proof.Machine
end

