-- ==== Sys2Proof/Machine/Flags.lean ====
section
/-! DEFINITION. What sets and clears CTRL's four flags (spec/10_state.md R36, spec/40_frame_arbiter.md R104, R107, R111, R113
to R119): each is one change of CTRL's registers. -/

namespace Sys2Proof.Machine

/-- A length programmed in RELOAD_WAIT (R104): TCR is cleared; a nonzero length raises TXIS, 0 makes an empty segment. -/
def Ctrl.resume (c : Ctrl) (n : Byte) : Ctrl :=
  if n = 0#8 then { c with nbytes := n, tcr := false, phase := .segEmpty }
  else { c with nbytes := n, tcr := false, txis := true, phase := .awaitTx }

/-- A frame opens (R107). -/
def Ctrl.openFrame (c : Ctrl) : Ctrl := { c with busy := true, phase := .addr }

/-- A byte is pushed (R113): NBYTES counts down modulo 2^8. -/
def Ctrl.takeByte (c : Ctrl) (b : Byte) : Ctrl :=
  { c with txdr := b, txis := false, nbytes := c.nbytes - 1#8, phase := .data }

/-- The end-of-byte procedure `after_ack` (R114); none stands for F_AUTOEND_OFF. -/
def Ctrl.afterAck (c : Ctrl) : Option Ctrl :=
  if c.nbytes ≠ 0#8 then some { c with txis := true, phase := .awaitTx }
  else if c.reload then some { c with tcr := true, phase := .reloadWait }
  else if c.autoend then some { c with phase := .stopping }
  else none

/-- The device refused a byte (R115, R116). -/
def Ctrl.refuse (c : Ctrl) : Ctrl := { c with nackf := true, phase := .nackHold }

/-- A STOP is sent: the bus is released (R118, R119). -/
def Ctrl.release (c : Ctrl) : Ctrl := { c with busy := false, phase := .free }

/-- The rejection flag is cleared (R111). -/
def Ctrl.clearNack (c : Ctrl) : Ctrl := { c with nackf := false }

end Sys2Proof.Machine
end

