-- ==== Sys2Proof/Machine/Bus.lean ====
section
/-! DEFINITION. The steps of agent BUS (spec/40_frame_arbiter.md R114 to R120). -/

namespace Sys2Proof.Machine

/-- The device's answer `answer` to the byte on the bus, logged as `ev` (R115, R116): a refusal, or the end-of-byte procedure
(R114). A step that raises F_AUTOEND_OFF makes no other change, so it logs nothing (R215; notes/assumptions/6.md). -/
def answered (s : State) (ev : WireEvent) (answer : Ack) : Result :=
  match answer with
  | .nack => .next ((s.log ev).withCtl s.ctl.refuse)
  | .ack =>
    match s.ctl.afterAck with
    | some c => .next ((s.log ev).withCtl c)
    | none => .next (s.raise .autoendOff)

/-- B_ADDR: the answer to the address byte (R115). -/
def busAddr (answer : Ack) (s : State) : Result := answered s (.addr s.ctl.sadd7 s.ctl.rdWrn answer) answer

/-- B_DATA: the answer to the byte in TXDR (R116). -/
def busData (answer : Ack) (s : State) : Result := answered s (.data s.ctl.txdr answer) answer

/-- B_EMPTY: the end of an empty segment, once RELOAD is 0, if the parameter says so (R117). -/
def busEmpty (p : Params) (s : State) : Result :=
  if s.ctl.reload = false ∧ p.emptyFinalSegment = .stop then .next (s.withCtl { s.ctl with phase := .stopping })
  else .next s

/-- B_STOP: the auto-stop (R118). -/
def busStop (s : State) : Result := .next ((s.log .stop).withCtl s.ctl.release)

/-- B_NACK_RELEASE: the bus is released after a rejection, if the parameter says so (R119). -/
def busNackRelease (p : Params) (s : State) : Result :=
  if p.nackReleasesBus then .next ((s.log .stop).withCtl s.ctl.release) else .next s

/-- The one BUS step the phase admits. A phase in which none is enabled leaves the state alone (notes/assumptions/4.md). -/
def busStep (p : Params) (answer : Ack) (s : State) : Result :=
  match s.ctl.phase with
  | .addr => busAddr answer s
  | .data => busData answer s
  | .segEmpty => busEmpty p s
  | .stopping => busStop s
  | .nackHold => busNackRelease p s
  | .free | .awaitTx | .reloadWait => .next s

/-- A BUS step is enabled (R115 to R119). -/
def busEnabled (p : Params) (s : State) : Bool :=
  match s.ctl.phase with
  | .addr | .data | .stopping => true
  | .segEmpty => !s.ctl.reload && p.emptyFinalSegment == .stop
  | .nackHold => p.nackReleasesBus
  | .free | .awaitTx | .reloadWait => false

end Sys2Proof.Machine
end

