-- ==== Sys2Proof/Machine/Frame.lean ====
section
/-! DEFINITION. The ops that put something on the bus: START and PUSH (spec/40_frame_arbiter.md R107, R113). -/

namespace Sys2Proof.Machine

/-- START (R107): F_START_BUSY is tested before F_START_READ (R219). -/
def execStart (s : State) : Result :=
  if s.ctl.phase = .free then
    guarded (!s.ctl.rdWrn) .startRead s ((s.log .start).answer none s.ctl.openFrame)
  else .next (s.raise .startBusy)

/-- PUSH b8 (R113). -/
def execPush (b : Byte) (s : State) : Result :=
  guarded s.ctl.txis .pushNotReady s (s.answer none (s.ctl.takeByte b))

end Sys2Proof.Machine
end

