-- ==== Sys2Proof/Machine/HostCmd.lean ====
section
/-! DEFINITION. The host command GO, write_with_header (spec/41_transfer_engine.md R151 to R153). -/

namespace Sys2Proof.Machine

/-- The latch of GO (R152): the request is copied and the counters are set. MS is set by the step that latches. -/
def Engine.latch (h : HostRegs) (ms : Micro) : Engine where
  lAddr := h.addr
  lHp := h.hdrPtr
  lHl := h.hdrLen
  lPp := h.payPtr
  lPl := h.payLen
  seg := 0#8
  rem := h.payLen
  out := false
  cause := .noCause
  pushed := 0#32
  ms := ms

/-- The header length precondition, on all 32 bits (R153). -/
def headerTooLong (h : HostRegs) : Bool := decide (255#32 < h.hdrLen)

/-- ENGINE after an accepted GO (R151): M_CHKBUSY, or the HDR_TOO_LONG verdict with no op issued. -/
def Engine.accept (h : HostRegs) : Engine :=
  if headerTooLong h then (Engine.latch h .chkBusy).reject .hdrTooLong else Engine.latch h .chkBusy

/-- GO (R151): no effect while a request is active. An accepted GO starts the request's op trace and buffer ownership anew
(notes/assumptions/13.md, 15.md). -/
def execGo (s : State) : Result :=
  if s.eng.ms.active then .next s
  else .next { s with eng := Engine.accept s.host, trace := [], stale := [] }

end Sys2Proof.Machine
end

