-- ==== Sys2Proof/Machine/Poll.lean ====
section
/-! DEFINITION. The polls and the clear of the rejection flag: POLLTXIS, POLLTCR, POLLNACK, CLRNACK, POLLBUSY
(spec/40_frame_arbiter.md R108 to R112). -/

namespace Sys2Proof.Machine

/-- A poll answers with a flag and has no side effect (R82, R101). -/
def poll (s : State) (flag : Bool) : Result := .next (s.answer (some flag) s.ctl)

/-- POLLTXIS (R108). -/
def execPolltxis (s : State) : Result := poll s s.ctl.txis

/-- POLLTCR (R109). -/
def execPolltcr (s : State) : Result := poll s s.ctl.tcr

/-- POLLNACK (R110). -/
def execPollnack (s : State) : Result := poll s s.ctl.nackf

/-- CLRNACK (R111). -/
def execClrnack (s : State) : Result := .next (s.answer none s.ctl.clearNack)

/-- POLLBUSY (R112). -/
def execPollbusy (s : State) : Result := poll s s.ctl.busy

end Sys2Proof.Machine
end

