-- ==== Sys2Proof/Machine/Setup.lean ====
section
/-! DEFINITION. The ops that program CTRL's control fields: SETADDR, SETDIR, SETNBYTES, SETAUTOEND, SETRELOAD
(spec/40_frame_arbiter.md R102 to R106). -/

namespace Sys2Proof.Machine

/-- An op that configures a frame: legal while none is open, F_CFG_WHILE_BUSY otherwise (R102, R103, R105). -/
def configure (s : State) (c : Ctrl) : Result :=
  guarded (s.ctl.phase == .free) .cfgWhileBusy s (s.answer none c)

/-- SETADDR a7 (R102). It writes SADD[9:8] and SADD[0] as 0 (R37). -/
def execSetaddr (a : Target) (s : State) : Result := configure s { s.ctl with sadd7 := a, saddRest := 0#3 }

/-- SETDIR d (R103). -/
def execSetdir (d : Bool) (s : State) : Result := configure s { s.ctl with rdWrn := d }

/-- SETNBYTES n8 (R104). -/
def execSetnbytes (n : Byte) (s : State) : Result :=
  match s.ctl.phase with
  | .free => .next (s.answer none { s.ctl with nbytes := n })
  | .reloadWait => .next (s.answer none (s.ctl.resume n))
  | .addr | .awaitTx | .data => .next (s.raise .nbytesOpenSegment)
  | .segEmpty | .stopping | .nackHold => .next (s.raise .nbytesNoSegment)

/-- SETAUTOEND e (R105). -/
def execSetautoend (e : Bool) (s : State) : Result := configure s { s.ctl with autoend := e }

/-- SETRELOAD r (R106). -/
def execSetreload (r : Bool) (s : State) : Result :=
  guarded (r || s.ctl.phase != .reloadWait) .reloadClearedInTcr s (s.answer none { s.ctl with reload := r })

end Sys2Proof.Machine
end

