-- ==== Sys2Proof/Machine/Dispatch.lean ====
section
/-! DEFINITION. One arm per instruction: the meaning each constructor of Instr calls. -/

namespace Sys2Proof.Machine

def exec (i : Instr) (s : State) : Host.Outcome State Fault Refusal :=
  match i with
  | .setaddr a => Sys2Proof.Machine.execSetaddr a s
  | .setdir d => Sys2Proof.Machine.execSetdir d s
  | .setnbytes n => Sys2Proof.Machine.execSetnbytes n s
  | .setautoend e => Sys2Proof.Machine.execSetautoend e s
  | .setreload r => Sys2Proof.Machine.execSetreload r s
  | .start => Sys2Proof.Machine.execStart s
  | .polltxis => Sys2Proof.Machine.execPolltxis s
  | .polltcr => Sys2Proof.Machine.execPolltcr s
  | .pollnack => Sys2Proof.Machine.execPollnack s
  | .clrnack => Sys2Proof.Machine.execClrnack s
  | .pollbusy => Sys2Proof.Machine.execPollbusy s
  | .push b => Sys2Proof.Machine.execPush b s
  | .go => Sys2Proof.Machine.execGo s

end Sys2Proof.Machine
end

