-- ==== Sys2Proof/Machine/Operands.lean ====
section
/-! DEFINITION. How ENGINE forms the operands of its ops: segment lengths (spec/42_segment_reload.md R187), and the buffer
bytes it reads from HOSTMEM (spec/20_memory.md R62, R67, R68, R70). -/

namespace Sys2Proof.Machine

/-- The header segment's length operand, E.L_HL[7:0] (R157). -/
def headerLen (e : Engine) : Byte := e.lHl.setWidth 8

/-- The next payload segment's length, min(REM, 255) (R187). -/
def segmentLen (rem : Word) : Byte := if rem ≤ 255#32 then rem.setWidth 8 else 255#8

/-- The segment is the final one: REM - n = 0 (R187). -/
def isFinal (rem : Word) : Bool := rem == (segmentLen rem).setWidth 32

/-- The index of the next header byte, L_HL - SEG (R163). -/
def headerIndex (e : Engine) : Word := e.lHl - e.seg.setWidth 32

/-- The index of the next payload byte, L_PL - REM (R192). -/
def payloadIndex (e : Engine) : Word := e.lPl - e.rem

/-- A buffer of `n` bytes at `a` overlaps a register block: outside the model (R67). -/
def overlapsRegisters (p : Params) (a : Addr) (n : Nat) : Bool :=
  arcsMeet a n p.engineBase engineBlockBytes || arcsMeet a n p.ctrlBase ctrlBlockBytes

/-- `a` is a byte of the buffer of `len` bytes at `base` (R62, addresses modulo 2^32). -/
def inBuffer (base len : Word) (a : Addr) : Bool := decide (a - base < len)

/-- `a` is a byte of the running request's header or payload buffer: HOST must not write it (R70). -/
def State.owns (s : State) (a : Addr) : Bool :=
  s.eng.ms.active && (inBuffer s.eng.lHp s.eng.lHl a || inBuffer s.eng.lPp s.eng.lPl a)

/-- The values a read of `a` may return: the one held now, and those held earlier in the request if HOST has overwritten
them (R70). -/
def candidates (p : Params) (s : State) (a : Addr) : List Byte :=
  s.byteAt p a :: (s.stale.filter (fun c => c.1 == a.toNat)).map (·.2)

/-- The value an ENGINE read of `a` returns: the draw chooses among the candidates (R70). -/
def drawByte (p : Params) (s : State) (a : Addr) (draw : Nat) : Byte :=
  ((candidates p s a)[draw % (candidates p s a).length]?).getD (s.byteAt p a)

/-- What a MemRead of a buffer byte comes to (R62, R67, R68). -/
inductive BufferRead where
  | byte (b : Byte)
  | notAdmitted
  | overlap
  deriving DecidableEq, Repr

/-- `MemRead(base + k, 1)` of the buffer of `len` bytes at `base` (R62). -/
def memRead (p : Params) (draw : Nat) (s : State) (base len k : Word) : BufferRead :=
  if overlapsRegisters p base len.toNat then .overlap
  else if p.admits (base + k) then .byte (drawByte p s (base + k) draw)
  else .notAdmitted

end Sys2Proof.Machine
end

