-- ==== Sys2Proof/Machine/CtrlPort.lean ====
section
/-! DEFINITION. The concrete controller registers (spec/10_state.md R37 to R40) and the register access of each op
(spec/30_encoding.md R89). The layout is the spec's own choice, from general knowledge of the family (G1 to G6). -/

namespace Sys2Proof.Machine

/-- The registers of CTRL's block (R37 to R40). -/
inductive CtrlReg where
  | cr2
  | isr
  | icr
  | txdr
  deriving DecidableEq, Repr

/-- The offset of a register from CTRL_BASE (R37 to R40, R224). -/
def CtrlReg.offset : CtrlReg → Nat
  | .cr2 => 0x04
  | .isr => 0x18
  | .icr => 0x1C
  | .txdr => 0x28

/-- The register at an offset from CTRL_BASE; the spec names no other (R61, R224), and an access at another offset is refused
(notes/assumptions/17.md). -/
def ctrlRegAt (off : Nat) : Option CtrlReg :=
  if off = 0x04 then some .cr2
  else if off = 0x18 then some .isr
  else if off = 0x1C then some .icr
  else if off = 0x28 then some .txdr
  else none

/-- The host byte address of a register. -/
def CtrlReg.address (p : Params) (r : CtrlReg) : Addr := p.ctrlBase + BitVec.ofNat 32 r.offset

/-- CR2 (R37), from bit 31 down: reserved, PECBYTE, AUTOEND, RELOAD, NBYTES, NACK, STOP, START, HEAD10R, ADD10, RD_WRN,
SADD[9:8], SADD[7:1], SADD[0]. -/
def cr2Word (c : Ctrl) : Word :=
  0#5 ++ 0#1 ++ BitVec.ofBool c.autoend ++ BitVec.ofBool c.reload ++ c.nbytes ++ 0#1 ++ 0#1 ++
    BitVec.ofBool (c.phase == .addr) ++ 0#1 ++ 0#1 ++ BitVec.ofBool c.rdWrn ++ c.saddRest.extractLsb' 1 2 ++
    c.sadd7 ++ c.saddRest.extractLsb' 0 1

/-- The ISR bits the block has (R38): BUSY [15], TCR [7], NACKF [4], TXIS [1]. -/
def isrMask : Word := 0x00008092#32

/-- The four modelled ISR bits (R38). -/
def isrFlags (c : Ctrl) : Word :=
  0#16 ++ BitVec.ofBool c.busy ++ 0#7 ++ BitVec.ofBool c.tcr ++ 0#2 ++ BitVec.ofBool c.nackf ++ 0#2 ++
    BitVec.ofBool c.txis ++ 0#1

/-- ISR (R38): the modelled bits, and any value in the others. -/
def isrWord (free : Word) (c : Ctrl) : Word := (free &&& ~~~isrMask) ||| isrFlags c

/-- ICR.NACKCF (R39). -/
def nackcf : Word := 0x00000010#32

/-- The register access of each op (R89). A poll is a read of ISR. -/
def accessOf (p : Params) : Instr → Option CtrlAccess
  | .setaddr a => some (.update (.sadd (0#2 ++ a ++ 0#1)))
  | .setdir d => some (.update (.rdWrn d))
  | .setnbytes n => some (.update (.nbytes n))
  | .setautoend e => some (.update (.autoend e))
  | .setreload r => some (.update (.reload r))
  | .start => some (.update .start)
  | .polltxis | .polltcr | .pollnack | .pollbusy => some (.rd (CtrlReg.isr.address p) .word)
  | .clrnack => some (.wr (CtrlReg.icr.address p) .word (nackcf.setWidth 64))
  | .push b => some (.wr (CtrlReg.txdr.address p) .word (b.setWidth 64))
  | .go => none

/-- A register read returns a word and changes nothing else (R66). -/
def State.readWord (s : State) (w : Word) : State := { s with rdata := w.setWidth 64 }

/-- Bits [9:8] and [0] of SADD take a free value. -/
def State.freeSadd (p : Params) (s : State) : State :=
  { s with ctl := { s.ctl with saddRest := p.saddFree s.tick }, tick := s.tick + 1 }

/-- A write of SADD: SETADDR of SADD[7:1] (R37, R89). If it sets a bit outside SADD[7:1], what those bits then read is not
stated: they are a free value (notes/assumptions/26.md). -/
def writeSadd (p : Params) (v : BitVec 10) (s : State) : Result :=
  match exec (.setaddr (v.extractLsb' 1 7)) s with
  | .next t =>
    .next (if t.fault = [] ∧ ¬ (v.extractLsb' 8 2 = 0#2 ∧ v.getLsbD 0 = false) then t.freeSadd p else t)
  | .fault f => .fault f
  | .refused r => .refused r

/-- The update of one field of CR2 is that field's op (R89). -/
def updateCr2 (p : Params) (u : Cr2Update) (s : State) : Result :=
  match u with
  | .sadd v => writeSadd p v s
  | .rdWrn d => exec (.setdir d) s
  | .nbytes n => exec (.setnbytes n) s
  | .autoend e => exec (.setautoend e) s
  | .reload r => exec (.setreload r) s
  | .start => exec .start s

/-- The field updates that a word written to CR2 amounts to: the fields it changes, and START if its bit is 1, in the order of
`BEGIN` (R88). The bits that R37 holds at 0 take no write (notes/assumptions/28.md). -/
def cr2Updates (c : Ctrl) (w : Word) : List Cr2Update :=
  (if w.extractLsb' 0 10 = (cr2Word c).extractLsb' 0 10 then [] else [.sadd (w.extractLsb' 0 10)]) ++
  (if w.getLsbD 10 = c.rdWrn then [] else [.rdWrn (w.getLsbD 10)]) ++
  (if w.extractLsb' 16 8 = c.nbytes then [] else [.nbytes (w.extractLsb' 16 8)]) ++
  (if w.getLsbD 25 = c.autoend then [] else [.autoend (w.getLsbD 25)]) ++
  (if w.getLsbD 24 = c.reload then [] else [.reload (w.getLsbD 24)]) ++
  (if w.getLsbD 13 then [.start] else [])

/-- Field updates one after the other, up to the first that raises a fault. -/
def updateAll (p : Params) : List Cr2Update → State → Result
  | [], s => .next s
  | u :: us, s =>
    match updateCr2 p u s with
    | .next t => if t.fault = [] then updateAll p us t else .next t
    | .fault f => .fault f
    | .refused r => .refused r

/-- A word written to CR2, in one step (notes/assumptions/28.md). If an update raises a fault, the step makes no other change
(R215). -/
def writeCr2 (p : Params) (w : Word) (s : State) : Result :=
  match updateAll p (cr2Updates s.ctl w) s with
  | .next t => .next (if t.fault = [] then t else { s with fault := t.fault })
  | .fault f => .fault f
  | .refused r => .refused r

/-- A word written to a register of CTRL. ISR is read-only and takes no write (R38; notes/assumptions/27.md). Writing 0 to NACKCF
has no effect, and writing 1 to another bit of ICR is outside the model (R39). Bits [31:8] of a word written to TXDR are ignored,
which is the model's choice (R40 calls them reserved; notes/assumptions/24.md). -/
def writeCtrlReg (p : Params) (r : CtrlReg) (w : Word) (s : State) : Result :=
  match r with
  | .cr2 => writeCr2 p w s
  | .isr => .next s
  | .icr =>
    if w &&& ~~~nackcf ≠ 0#32 then .refused (.icrUnmodelledBit w)
    else if w = 0#32 then .next s
    else exec .clrnack s
  | .txdr => exec (.push (w.extractLsb' 0 8)) s

/-- A read of a register of CTRL. ICR reads 0 (R39); what TXDR reads is not stated and is a free value
(notes/assumptions/27.md). -/
def readCtrlReg (p : Params) (r : CtrlReg) (s : State) : Result :=
  match r with
  | .cr2 => .next (s.readWord (cr2Word s.ctl))
  | .isr => .next { s.readWord (isrWord (p.isrFree s.tick) s.ctl) with tick := s.tick + 1 }
  | .icr => .next (s.readWord 0#32)
  | .txdr => .next { s.readWord (p.txdrFree s.tick) with tick := s.tick + 1 }

/-- A driver's access to the concrete registers (R37 to R40, R89), by address from CTRL_BASE (R61, R65, R224). -/
def ctrlAccess (p : Params) (x : CtrlAccess) (s : State) : Result :=
  match x with
  | .update u => updateCr2 p u s
  | .wr a width v => wordAccess ctrlRegAt (a - p.ctrlBase).toNat width fun r => writeCtrlReg p r (v.setWidth 32) s
  | .rd a width => wordAccess ctrlRegAt (a - p.ctrlBase).toNat width fun r => readCtrlReg p r s

end Sys2Proof.Machine
end

