-- ==== Sys2Proof/WellFormed.lean ====
section
/-! DEFINITION. Well-formedness of what the two encoded interfaces carry (spec/30_encoding.md R84 to R86). The operand types
of `Instr` leave no ill-formed instruction; the checks are on words. -/

namespace Sys2Proof

/-- One row of the opcode map of R84. -/
structure OpRow where
  mnemonic : String
  mask : OpWord
  value : OpWord
  deriving DecidableEq, Repr

/-- The opcode map, in the order of R84. -/
def opRows : List OpRow :=
  [⟨"SETADDR", 0xFF80#16, 0x1000#16⟩, ⟨"SETDIR", 0xFFFE#16, 0x2000#16⟩, ⟨"SETNBYTES", 0xFF00#16, 0x3000#16⟩,
   ⟨"SETAUTOEND", 0xFFFE#16, 0x4000#16⟩, ⟨"SETRELOAD", 0xFFFE#16, 0x5000#16⟩, ⟨"START", 0xFFFF#16, 0x6000#16⟩,
   ⟨"POLLTXIS", 0xFFFF#16, 0x7000#16⟩, ⟨"POLLTCR", 0xFFFF#16, 0x8000#16⟩, ⟨"POLLNACK", 0xFFFF#16, 0x9000#16⟩,
   ⟨"CLRNACK", 0xFFFF#16, 0xA000#16⟩, ⟨"POLLBUSY", 0xFFFF#16, 0xB000#16⟩, ⟨"PUSH", 0xFF00#16, 0xC000#16⟩]

/-- The word decodes to this row (R84). -/
def OpRow.accepts (r : OpRow) (w : OpWord) : Bool := w &&& r.mask == r.value

/-- The rows that accept a word; the mnemonics it may stand for. -/
def rowsOf (w : OpWord) : List String := (opRows.filter (·.accepts w)).map (·.mnemonic)

/-- A legal op word: some row of R84 accepts it. Every other word is illegal (R85). -/
def legalOpWord (w : OpWord) : Bool := opRows.any (·.accepts w)

/-- A host command word that issues GO (R86). -/
def isGoWord (w : Word) : Bool := w.getLsbD 0

/-- The instruction is an op word of the operation port; GO is not (R81, R86). -/
def Instr.isOp : Instr → Bool
  | .setaddr _ | .setdir _ | .setnbytes _ | .setautoend _ | .setreload _ | .start => true
  | .polltxis | .polltcr | .pollnack | .clrnack | .pollbusy | .push _ => true
  | .go => false

end Sys2Proof
end

