-- ==== Sys2Proof/Decode.lean ====
section
/-! DEFINITION. Decoding and encoding of both interfaces (spec/30_encoding.md R81 to R86, R90). Decoding is total and
rejects by name. -/

namespace Sys2Proof

/-- Why a word is no instruction. -/
inductive Reject where
  /-- OPC is 0x0, 0xD, 0xE or 0xF (R85, R90 step 2) -/
  | reservedOpc
  /-- a bit outside the row's fields is nonzero (R85, R90 step 4) -/
  | strayBits
  /-- a host command word with bit 0 = 0: a no-op (R86) -/
  | noCommand
  /-- neither 2 bytes (an op word) nor 4 bytes (a host command) -/
  | badLength
  deriving DecidableEq, Repr

/-- The decoder's verdict (R85). -/
inductive Verdict where
  | instr (i : Instr)
  | invalid (why : Reject)
  deriving DecidableEq, Repr

/-- The instruction, if the verdict is one. -/
def Verdict.instr? : Verdict → Option Instr
  | .instr i => some i
  | .invalid _ => none

/-- Steps 3 to 5 of R90 for one row. -/
def decodeRow (w mask value : OpWord) (i : Instr) : Verdict :=
  if w &&& mask = value then .instr i else .invalid .strayBits

/-- The operation code (R81). -/
def opcOf (w : OpWord) : BitVec 4 := w.extractLsb' 12 4

/-- The decode procedure for an op word (R90), with the operand sub-fields of R83. -/
def decodeOp (w : OpWord) : Verdict :=
  match (opcOf w).toNat with
  | 1 => decodeRow w 0xFF80#16 0x1000#16 (.setaddr (w.extractLsb' 0 7))
  | 2 => decodeRow w 0xFFFE#16 0x2000#16 (.setdir (w.getLsbD 0))
  | 3 => decodeRow w 0xFF00#16 0x3000#16 (.setnbytes (w.extractLsb' 0 8))
  | 4 => decodeRow w 0xFFFE#16 0x4000#16 (.setautoend (w.getLsbD 0))
  | 5 => decodeRow w 0xFFFE#16 0x5000#16 (.setreload (w.getLsbD 0))
  | 6 => decodeRow w 0xFFFF#16 0x6000#16 .start
  | 7 => decodeRow w 0xFFFF#16 0x7000#16 .polltxis
  | 8 => decodeRow w 0xFFFF#16 0x8000#16 .polltcr
  | 9 => decodeRow w 0xFFFF#16 0x9000#16 .pollnack
  | 10 => decodeRow w 0xFFFF#16 0xA000#16 .clrnack
  | 11 => decodeRow w 0xFFFF#16 0xB000#16 .pollbusy
  | 12 => decodeRow w 0xFF00#16 0xC000#16 (.push (w.extractLsb' 0 8))
  | _ => .invalid .reservedOpc

/-- The host command (R86): bit 0 is GO, bits [31:1] are ignored. -/
def decodeHostCmd (w : Word) : Verdict :=
  if w.getLsbD 0 then .instr .go else .invalid .noCommand

/-- A word of one of the two interfaces: a 16-bit op word (OP16) or a 32-bit host command (HOSTCMD). -/
inductive Encoding where
  | op16 (w : OpWord)
  | hostCmd (w : Word)
  deriving DecidableEq, Repr

/-- Decoding of both interfaces. -/
def decode : Encoding → Verdict
  | .op16 w => decodeOp w
  | .hostCmd w => decodeHostCmd w

/-- Decoding of bytes, least significant first: 2 bytes are an op word, 4 a host command. R64 gives the order for the 32-bit
word; for an op word it is the model's choice (notes/assumptions/25.md). -/
def decodeBytes : List Byte → Verdict
  | [b0, b1] => decodeOp (b1 ++ b0)
  | [b0, b1, b2, b3] => decodeHostCmd (b3 ++ b2 ++ b1 ++ b0)
  | _ => .invalid .badLength

/-- The op word of an op (R83, R84). GO has none; 0x0000, an illegal word, stands for it. -/
def encodeOp : Instr → OpWord
  | .setaddr a => 0x1000#16 ||| a.setWidth 16
  | .setdir d => 0x2000#16 ||| (BitVec.ofBool d).setWidth 16
  | .setnbytes n => 0x3000#16 ||| n.setWidth 16
  | .setautoend e => 0x4000#16 ||| (BitVec.ofBool e).setWidth 16
  | .setreload r => 0x5000#16 ||| (BitVec.ofBool r).setWidth 16
  | .start => 0x6000#16
  | .polltxis => 0x7000#16
  | .polltcr => 0x8000#16
  | .pollnack => 0x9000#16
  | .clrnack => 0xA000#16
  | .pollbusy => 0xB000#16
  | .push b => 0xC000#16 ||| b.setWidth 16
  | .go => 0x0000#16

/-- The word of an instruction on its own interface. GO is encoded with its ignored bits 0 (R86). -/
def encode (i : Instr) : Encoding :=
  if i.isOp then .op16 (encodeOp i) else .hostCmd 0x00000001#32

/-- The low `n` bytes of a number, least significant first. -/
def bytesLE : Nat → Nat → List Byte
  | 0, _ => []
  | n + 1, w => BitVec.ofNat 8 w :: bytesLE n (w / 256)

/-- The number of bytes the interface of a table row carries: op words are the rows of 16 bits; the host command's word
has 32 bits, of which the table fixes only bit 0. -/
def tableBytes (nbits : Nat) : Nat := if nbits = 16 then 2 else 4

/-- The instruction the decoder reads from a word numbered as spec/opcode_table.json numbers it. -/
def decodeTableWord (nbits w : Nat) : Option Instr := (decodeBytes (bytesLE (tableBytes nbits) w)).instr?

end Sys2Proof
end

