-- ==== Sys2Proof/Machine/HostPort.lean ====
section
/-! DEFINITION. What HOST can do: the engine's register block (spec/10_state.md R21 to R31) and HOSTMEM (spec/20_memory.md R61
to R70). -/

namespace Sys2Proof.Machine

/-- The eight registers of the block, in the order of their offsets (R21). -/
inductive HostReg where
  | addr
  | hdrPtr
  | hdrLen
  | payPtr
  | payLen
  | cmd
  | status
  | pushed
  deriving DecidableEq, Repr

/-- The register at an offset from ENGINE_BASE; 0x20 and up do not belong to the block (R21). -/
def regAt (off : Nat) : Option HostReg :=
  if off = 0x00 then some .addr
  else if off = 0x04 then some .hdrPtr
  else if off = 0x08 then some .hdrLen
  else if off = 0x0C then some .payPtr
  else if off = 0x10 then some .payLen
  else if off = 0x14 then some .cmd
  else if off = 0x18 then some .status
  else if off = 0x1C then some .pushed
  else none

/-- The code of a micro-state (R33). -/
def Micro.code : Micro → BitVec 5
  | .idle => 0
  | .chkBusy => 1
  | .setAddr => 2
  | .setDir => 3
  | .setNbH => 4
  | .setAe => 5
  | .setRl => 6
  | .start => 7
  | .hNack => 8
  | .hTx => 9
  | .hPush => 10
  | .rpTcr => 11
  | .pSetNb => 12
  | .pClrRl => 13
  | .pNack => 14
  | .pTx => 15
  | .pPush => 16
  | .rjClrN => 17
  | .rjClrRl => 18
  | .doneC => 19
  | .doneR => 20

/-- The source state a micro-state reports, as H.STATUS.STATE encodes it (R29). -/
def Micro.state : Micro → BitVec 3
  | .idle | .chkBusy => 0
  | .setAddr | .setDir | .setNbH | .setAe | .setRl | .start | .hNack | .hTx | .hPush => 1
  | .rpTcr | .pSetNb | .pClrRl => 2
  | .pNack | .pTx | .pPush => 3
  | .doneC => 4
  | .rjClrN | .rjClrRl | .doneR => 5

/-- The code of a cause (R28). -/
def Cause.code : Cause → BitVec 2
  | .noCause => 0
  | .hdrTooLong => 1
  | .busBusy => 2
  | .nack => 3

/-- H.STATUS (R28): reserved, MS, ACTIVE, STATE, CAUSE, OUTCOME, DONE, from bit 31 down. OUTCOME reads 0 unless DONE. -/
def statusWord (e : Engine) : Word :=
  0#19 ++ e.ms.code ++ BitVec.ofBool e.ms.active ++ e.ms.state ++ e.cause.code ++
    BitVec.ofBool (e.ms.done && e.out) ++ BitVec.ofBool e.ms.done

/-- What a read of a register returns (R22 to R30). Reserved bits and CMD read 0. -/
def readReg (s : State) : HostReg → Word
  | .addr => s.host.addr.setWidth 32
  | .hdrPtr => s.host.hdrPtr
  | .hdrLen => s.host.hdrLen
  | .payPtr => s.host.payPtr
  | .payLen => s.host.payLen
  | .cmd => 0
  | .status => statusWord s.eng
  | .pushed => s.eng.pushed

/-- Replace the request registers. -/
def State.withHost (s : State) (h : HostRegs) : State := { s with host := h }

/-- A 32-bit write of a register (R22 to R30): reserved bits and read-only registers ignore it; CMD issues GO or does
nothing (R86). -/
def writeReg (r : HostReg) (v : Word) (s : State) : Result :=
  match r with
  | .addr => .next (s.withHost { s.host with addr := v.extractLsb' 0 7 })
  | .hdrPtr => .next (s.withHost { s.host with hdrPtr := v })
  | .hdrLen => .next (s.withHost { s.host with hdrLen := v })
  | .payPtr => .next (s.withHost { s.host with payPtr := v })
  | .payLen => .next (s.withHost { s.host with payLen := v })
  | .cmd =>
    match decodeHostCmd v with
    | .instr i => exec i s
    | .invalid _ => .next s
  | .status | .pushed => .next s

/-- `WR <register>, v` (R87). -/
def hostWr (off : Nat) (width : Width) (v : BitVec 64) (s : State) : Result :=
  wordAccess regAt off width fun r => writeReg r (v.setWidth 32) s

/-- `RD <register> -> value` (R87): no side effect (R66). -/
def hostRd (off : Nat) (width : Width) (s : State) : Result :=
  wordAccess regAt off width fun r => .next { s with rdata := (readReg s r).setWidth 64 }

/-- The number of bytes an access moves. -/
def bytesOf : Width → Nat
  | .byte => 1
  | .half => 2
  | .word => 4
  | .dword => 8

/-- HOST writes one byte of HOSTMEM. A byte of a running request's buffers keeps its earlier value as a candidate of the
reads to come (R70). -/
def storeByte (p : Params) (a : Addr) (b : Byte) (s : State) : State :=
  { s with
    mem := s.mem.write a.toNat b
    stale := if s.owns a then (a.toNat, s.byteAt p a) :: s.stale else s.stale }

/-- HOST writes the low `n` bytes of `v` at `a`, `a + 1`, … modulo 2^32, least significant first (R64, R73). -/
def storeBytes (p : Params) : Nat → Addr → BitVec 64 → State → State
  | 0, _, _, s => s
  | n + 1, a, v, s => storeBytes p n (a + 1#32) (v >>> 8) (storeByte p a (v.setWidth 8) s)

/-- The `n` bytes from `a`, least significant first. -/
def loadBytes (p : Params) : Nat → Addr → State → BitVec 64
  | 0, _, _ => 0
  | n + 1, a, s => ((loadBytes p n (a + 1#32) s) <<< 8) ||| (s.byteAt p a).setWidth 64

/-- A HOST access by address: CTRL's block is closed to HOST (R122, R246), ENGINE's block is its registers (R61), the rest is
HOSTMEM. -/
def routed (p : Params) (a : Addr) (width : Width) (reg : Nat → Result) (mem : Result) : Result :=
  if arcsMeet a (bytesOf width) p.ctrlBase ctrlBlockBytes then .refused (.hostTouchesCtrl a)
  else if arcsMeet a (bytesOf width) p.engineBase engineBlockBytes then reg (a - p.engineBase).toNat
  else mem

/-- HOST stores to an address. -/
def hostStore (p : Params) (a : Addr) (width : Width) (v : BitVec 64) (s : State) : Result :=
  routed p a width (fun off => hostWr off width v s) (.next (storeBytes p (bytesOf width) a v s))

/-- HOST loads from an address. -/
def hostLoad (p : Params) (a : Addr) (width : Width) (s : State) : Result :=
  routed p a width (fun off => hostRd off width s) (.next { s with rdata := loadBytes p (bytesOf width) a s })

/-- One HOST access. -/
def hostStep (p : Params) (h : HostMove) (s : State) : Result :=
  match h with
  | .wr off width v => hostWr off width v s
  | .rd off width => hostRd off width s
  | .store a width v => hostStore p a width v s
  | .load a width => hostLoad p a width s

end Sys2Proof.Machine
end

