-- ==== Sys2Proof/Machine/Port.lean ====
section
/-! DEFINITION. The operation port from ENGINE to CTRL (spec/30_encoding.md R81, R82, R90): an op word is decoded and carried
out, and ENGINE's op trace records it (spec/41_transfer_engine.md R168). -/

namespace Sys2Proof.Machine

/-- CTRL takes an op word: decode it (R90) and carry the op out, or refuse it as ILLEGAL_OP (R85, R216). -/
def acceptOpWord (w : OpWord) (s : State) : Result :=
  match decodeOp w with
  | .instr i => exec i s
  | .invalid _ => .refused (.illegalOp w)

/-- Record an op word and its response in the request's op trace (R168). -/
def State.record (s : State) (w : OpWord) : State := { s with trace := s.trace ++ [⟨w, s.resp⟩] }

/-- ENGINE issues one op (R8, R168): CTRL takes its op word; unless it faults, the word and its response join the op trace and
ENGINE's registers become `k` of the state after the op. A step that raises a fault makes no other change (R215). -/
def issue (i : Instr) (s : State) (k : State → Engine) : Result :=
  match acceptOpWord (encodeOp i) s with
  | .next t => if t.fault = [] then .next ((t.record (encodeOp i)).withEng (k t)) else .next t
  | .fault f => .fault f
  | .refused r => .refused r

end Sys2Proof.Machine
end

