-- ==== Sys2Proof/Machine/Transfer.lean ====
section
/-! DEFINITION. chunked_transfer_engine: the micro-states of the preconditions, the setup, the header stream and the rejection
exit (spec/41_transfer_engine.md R154 to R165). -/

namespace Sys2Proof.Machine

/-- ENGINE's registers with MS moved to `m` (R8). -/
def Engine.at (e : Engine) (m : Micro) : Engine := { e with ms := m }

/-- M_CHKBUSY, the bus-idle precondition (R154). -/
def stepChkBusy (s : State) : Result :=
  issue .pollbusy s fun t => if t.resp = some true then t.eng.reject .busBusy else t.eng.at .setAddr

/-- M_SETADDR (R155). -/
def stepSetAddr (s : State) : Result := issue (.setaddr s.eng.lAddr) s fun t => t.eng.at .setDir

/-- M_SETDIR (R156). -/
def stepSetDir (s : State) : Result := issue (.setdir false) s fun t => t.eng.at .setNbH

/-- M_SETNBH, the header segment length (R157). -/
def stepSetNbH (s : State) : Result :=
  issue (.setnbytes (headerLen s.eng)) s fun t => { t.eng with seg := headerLen s.eng, ms := .setAe }

/-- M_SETAE (R158). -/
def stepSetAe (s : State) : Result := issue (.setautoend true) s fun t => t.eng.at .setRl

/-- M_SETRL (R159). -/
def stepSetRl (s : State) : Result := issue (.setreload true) s fun t => t.eng.at .start

/-- M_START (R160): an empty header goes straight to the reload wait. -/
def stepStart (s : State) : Result :=
  issue .start s fun t => t.eng.at (if t.eng.seg = 0#8 then .rpTcr else .hNack)

/-- M_HNACK, the rejection check before a header byte (R161). -/
def stepHNack (s : State) : Result :=
  issue .pollnack s fun t => if t.resp = some true then t.eng.abandon else t.eng.at .hTx

/-- M_HTX, the ready-to-send wait for a header byte (R162). -/
def stepHTx (s : State) : Result :=
  issue .polltxis s fun t => t.eng.at (if t.resp = some true then .hPush else .hNack)

/-- ENGINE after a header byte is pushed (R163). -/
def Engine.headerSent (e : Engine) : Engine :=
  { e with seg := e.seg - 1#8, pushed := e.pushed + 1#32, ms := if e.seg - 1#8 = 0#8 then .rpTcr else .hNack }

/-- M_HPUSH, send one header byte (R163). A read that is not admitted leaves ENGINE stuck: the state does not change (R68,
R216). -/
def stepHPush (p : Params) (draw : Nat) (s : State) : Result :=
  match memRead p draw s s.eng.lHp s.eng.lHl (headerIndex s.eng) with
  | .byte b => issue (.push b) s fun t => t.eng.headerSent
  | .notAdmitted => .next s
  | .overlap => .refused .bufferOverlapsRegisters

/-- M_RJCLRN, clear the rejection flag (R164). -/
def stepRjClrN (s : State) : Result := issue .clrnack s fun t => t.eng.at .rjClrRl

/-- M_RJCLRRL, the exit normalisation (R165): the verdict is Rejected with the cause already recorded. -/
def stepRjClrRl (s : State) : Result := issue (.setreload false) s fun t => t.eng.reject t.eng.cause

end Sys2Proof.Machine
end

