-- ==== Sys2Proof/Machine/Reload.lean ====
section
/-! DEFINITION. segment_reload_sequencer: the reload wait, the payload segments and the payload stream
(spec/42_segment_reload.md R186 to R192), and ENGINE's step as a whole (spec/41_transfer_engine.md R166, R168). -/

namespace Sys2Proof.Machine

/-- M_RPTCR, wait for reload-required (R186). It polls TCR only. -/
def stepRpTcr (s : State) : Result :=
  issue .polltcr s fun t => t.eng.at (if t.resp = some true then .pSetNb else .rpTcr)

/-- M_PSETNB, program the next segment (R187, R188). -/
def stepPSetNb (s : State) : Result :=
  issue (.setnbytes (segmentLen s.eng.rem)) s fun t =>
    { t.eng with seg := segmentLen s.eng.rem, ms := if isFinal s.eng.rem then .pClrRl else .pNack }

/-- M_PCLRRL, clear reload before the final segment (R189): an empty payload is then complete. -/
def stepPClrRl (s : State) : Result :=
  issue (.setreload false) s fun t => if t.eng.seg = 0#8 then t.eng.complete else t.eng.at .pNack

/-- M_PNACK, the rejection check before a payload byte (R190). -/
def stepPNack (s : State) : Result :=
  issue .pollnack s fun t => if t.resp = some true then t.eng.abandon else t.eng.at .pTx

/-- M_PTX, the ready-to-send wait for a payload byte (R191). -/
def stepPTx (s : State) : Result :=
  issue .polltxis s fun t => t.eng.at (if t.resp = some true then .pPush else .pNack)

/-- ENGINE after a payload byte is pushed (R192): more of this segment, the next reload wait, or Completed. -/
def Engine.payloadSent (e : Engine) : Engine :=
  let e' := { e with seg := e.seg - 1#8, rem := e.rem - 1#32, pushed := e.pushed + 1#32 }
  if e'.seg ≠ 0#8 then e'.at .pNack else if e'.rem ≠ 0#32 then e'.at .rpTcr else e'.complete

/-- M_PPUSH, send one payload byte (R192). -/
def stepPPush (p : Params) (draw : Nat) (s : State) : Result :=
  match memRead p draw s s.eng.lPp s.eng.lPl (payloadIndex s.eng) with
  | .byte b => issue (.push b) s fun t => t.eng.payloadSent
  | .notAdmitted => .next s
  | .overlap => .refused .bufferOverlapsRegisters

/-- One ENGINE step: carry out the micro-state's rule (R168). M_IDLE, M_DONEC and M_DONER have no step (R166). -/
def engineStep (p : Params) (draw : Nat) (s : State) : Result :=
  match s.eng.ms with
  | .idle | .doneC | .doneR => .next s
  | .chkBusy => stepChkBusy s
  | .setAddr => stepSetAddr s
  | .setDir => stepSetDir s
  | .setNbH => stepSetNbH s
  | .setAe => stepSetAe s
  | .setRl => stepSetRl s
  | .start => stepStart s
  | .hNack => stepHNack s
  | .hTx => stepHTx s
  | .hPush => stepHPush p draw s
  | .rpTcr => stepRpTcr s
  | .pSetNb => stepPSetNb s
  | .pClrRl => stepPClrRl s
  | .pNack => stepPNack s
  | .pTx => stepPTx s
  | .pPush => stepPPush p draw s
  | .rjClrN => stepRjClrN s
  | .rjClrRl => stepRjClrRl s

/-- The read a push state makes is admitted and its buffer is legally placed (R67, R68). -/
def BufferRead.isByte : BufferRead → Bool
  | .byte _ => true
  | .notAdmitted | .overlap => false

/-- ENGINE has an enabled step (R168): MS is not M_IDLE, M_DONEC or M_DONER, and a push state's buffer read is admitted. -/
def engineEnabled (p : Params) (s : State) : Bool :=
  match s.eng.ms with
  | .idle | .doneC | .doneR => false
  | .hPush => (memRead p 0 s s.eng.lHp s.eng.lHl (headerIndex s.eng)).isByte
  | .pPush => (memRead p 0 s s.eng.lPp s.eng.lPl (payloadIndex s.eng)).isByte
  | .chkBusy | .setAddr | .setDir | .setNbH | .setAe | .setRl | .start | .hNack | .hTx => true
  | .rpTcr | .pSetNb | .pClrRl | .pNack | .pTx | .rjClrN | .rjClrRl => true

end Sys2Proof.Machine
end

