-- ==== Sys2Proof/Machine/Schedule.lean ====
section
/-! DEFINITION. One global order of atomic steps (spec/00_scope.md R5, spec/20_memory.md R69): which move is next, what each
move does, and the reset input (spec/70_reset_and_hazards.md R236 to R239). -/

namespace Sys2Proof.Machine

/-- RESET (R236): every piece of state of R44 takes its reset value. HOSTMEM is not the block's, and the queue, the counter
and the last value read belong to the environment (notes/assumptions/8.md, 22.md). -/
def resetStep (s : State) : State :=
  { State.reset with mem := s.mem, rdata := s.rdata, script := s.script, tick := s.tick }

/-- The move taken next: the head of the queue, or else a free value (notes/assumptions/1.md). -/
def nextMove (p : Params) (s : State) : Move :=
  match s.script with
  | m :: _ => m
  | [] => .block (p.environment s.tick)

/-- The state after the next move is taken from the queue, or the free value is used up. -/
def popMove (s : State) : State :=
  match s.script with
  | _ :: ms => { s with script := ms }
  | [] => { s with tick := s.tick + 1 }

/-- A step of the block's own agents, or its reset input (R5, R236). -/
def runBlock (p : Params) (m : BlockMove) (s : State) : Result :=
  match m with
  | .engine draw => engineStep p draw s
  | .bus answer => busStep p answer s
  | .host h => hostStep p h s
  | .reset => .next (resetStep s)

/-- What a move does. -/
def runMove (p : Params) (m : Move) (s : State) : Result :=
  match m with
  | .block b => runBlock p b s
  | .opWord w => acceptOpWord w s
  | .ctrlAccess x => ctrlAccess p x s

/-- One step of a block with parameters `p`. Once FAULT is not empty, no agent has an enabled step (R215, R236). -/
def advance (p : Params) (s : State) : Result :=
  match s.fault with
  | [] => runMove p (nextMove p s) (popMove s)
  | r :: rs => .fault (.quiescent (r :: rs))

end Sys2Proof.Machine
end

