-- ==== Sys2Proof/Machine/Step.lean ====
section
/-! DEFINITION. The machine's step, and how one instruction is placed so that the very next step runs it
(notes/assumptions/2.md). -/

namespace Sys2Proof.Machine

/-- One step of the machine: the block with the parameters of Config. -/
def step (s : State) : Host.Outcome State Fault Refusal := advance Config.params s

/-- The move that hands an instruction's bits to the machine: an op word at the operation port, or HOST's write of H.CMD at
offset 0x14 (R81, R86). -/
def tableMove (nbits w : Nat) : Move :=
  if tableBytes nbits = 2 then .opWord (BitVec.ofNat 16 w)
  else .block (.host (.wr 0x14 .word ((BitVec.ofNat 32 w).setWidth 64)))

/-- The state with that instruction as the next move. -/
def State.withFetchWord (s : State) (nbits w : Nat) : State := { s with script := tableMove nbits w :: s.script }

end Sys2Proof.Machine
end

