-- ==== Sys2Proof/Machine/Trace.lean ====
section
/-! DEFINITION. How op traces are written and grouped: the trace syntax (spec/30_encoding.md R87) and the pseudo-operations
(R88). -/

namespace Sys2Proof.Machine

/-- The mnemonic of an instruction (R84, R86). -/
def mnemonicOf : Instr → String
  | .setaddr _ => "SETADDR"
  | .setdir _ => "SETDIR"
  | .setnbytes _ => "SETNBYTES"
  | .setautoend _ => "SETAUTOEND"
  | .setreload _ => "SETRELOAD"
  | .start => "START"
  | .polltxis => "POLLTXIS"
  | .polltcr => "POLLTCR"
  | .pollnack => "POLLNACK"
  | .clrnack => "CLRNACK"
  | .pollbusy => "POLLBUSY"
  | .push _ => "PUSH"
  | .go => "GO"

/-- The operand of an instruction, if it has one (R83). -/
def operandOf : Instr → Option Nat
  | .setaddr a => some a.toNat
  | .setdir d => some d.toNat
  | .setnbytes n => some n.toNat
  | .setautoend e => some e.toNat
  | .setreload r => some r.toNat
  | .push b => some b.toNat
  | .start | .polltxis | .polltcr | .pollnack | .clrnack | .pollbusy | .go => none

/-- One line of a trace: `MNEMONIC [operand] [-> response]`, operand in decimal (R87). -/
def traceLine (i : Instr) (resp : Option Bool) : String :=
  mnemonicOf i ++ ((operandOf i).elim "" fun n => " " ++ toString n) ++
    (resp.elim "" fun r => if r then " -> 1" else " -> 0")

/-- The name of a register in the trace syntax (R87). -/
def hostRegName : HostReg → String
  | .addr => "H.ADDR"
  | .hdrPtr => "H.HDR_PTR"
  | .hdrLen => "H.HDR_LEN"
  | .payPtr => "H.PAY_PTR"
  | .payLen => "H.PAY_LEN"
  | .cmd => "H.CMD"
  | .status => "H.STATUS"
  | .pushed => "H.PUSHED"

/-- A HOST write in the trace syntax, `WR <register>, <value>` (R87). -/
def wrLine (r : HostReg) (v : Word) : String := "WR " ++ hostRegName r ++ ", " ++ toString v.toNat

/-- A HOST read in the trace syntax, `RD <register> -> <value>` (R87). -/
def rdLine (r : HostReg) (v : Word) : String := "RD " ++ hostRegName r ++ " -> " ++ toString v.toNat

/-- `BEGIN a, n` (R88). -/
def beginOps (a : Target) (n : Byte) : List Instr :=
  [.setaddr a, .setdir false, .setnbytes n, .setautoend true, .setreload true, .start]

/-- `SEGMENT n, last` (R88). -/
def segmentOps (n : Byte) (last : Bool) : List Instr :=
  if last then [.setnbytes n, .setreload false] else [.setnbytes n]

/-- `ABORT` (R88). -/
def abortOps : List Instr := [.clrnack, .setreload false]

/-- An op that returns nothing, as the trace records it. -/
def quiet (i : Instr) : OpRecord := ⟨encodeOp i, none⟩

/-- A poll with its response, as the trace records it. -/
def polled (i : Instr) (r : Bool) : OpRecord := ⟨encodeOp i, some r⟩

/-- How a WAITBYTE ends (R88). -/
inductive WaitExit where
  | rejected
  | ready
  deriving DecidableEq, Repr

/-- `WAITBYTE` on the records of a trace (R88): how it ends, and the records after it; none if the records are no complete
WAITBYTE. -/
def waitByte : List OpRecord → Option (WaitExit × List OpRecord)
  | [] => none
  | [x] => if x = polled .pollnack true then some (.rejected, []) else none
  | x :: y :: rest =>
    if x = polled .pollnack true then some (.rejected, y :: rest)
    else if x = polled .pollnack false then
      if y = polled .polltxis true then some (.ready, rest)
      else if y = polled .polltxis false then waitByte rest
      else none
    else none

/-- `WAITTCR` on the records of a trace (R88): the records after it. -/
def waitTcr : List OpRecord → Option (List OpRecord)
  | [] => none
  | x :: rest =>
    if x = polled .polltcr true then some rest
    else if x = polled .polltcr false then waitTcr rest
    else none

/-- `SENDBYTE b` on the records of a trace (R88): WAITBYTE, and on ready a PUSH of b. -/
def sendByte (b : Byte) (rs : List OpRecord) : Option (WaitExit × List OpRecord) :=
  match waitByte rs with
  | some (.ready, x :: rest) => if x = quiet (.push b) then some (.ready, rest) else none
  | some (.ready, []) => none
  | some (.rejected, rest) => some (.rejected, rest)
  | none => none

/-- The bytes pushed, in order (R195). -/
def pushesOf : List OpRecord → List Byte
  | [] => []
  | x :: rest =>
    match decodeOp x.word with
    | .instr (.push b) => b :: pushesOf rest
    | _ => pushesOf rest

/-- The SETNBYTES operands, in order (R194). -/
def lengthsOf : List OpRecord → List Byte
  | [] => []
  | x :: rest =>
    match decodeOp x.word with
    | .instr (.setnbytes n) => n :: lengthsOf rest
    | _ => lengthsOf rest

/-- How many times an instruction stands in the trace. -/
def countOf (i : Instr) (rs : List OpRecord) : Nat := (rs.filter (fun x => x.word == encodeOp i)).length

end Sys2Proof.Machine
end

