-- ==== Sys2Proof/Safety.lean ====
section
/-! DEFINITION. What a safe run is, in the terms the statements use: the invariants of spec/10_state.md R34 and R41, frames on
the wire (spec/10_state.md R42, spec/40_frame_arbiter.md R122), what a request has sent (spec/42_segment_reload.md R194,
R195), runs and weak fairness (spec/40_frame_arbiter.md R120), and the eager schedule (spec/00_scope.md R11, glossary). -/

namespace Sys2Proof.Machine

/-! ### The register blocks (R61, R67) -/

/-- One of the `n` bytes from host byte address `a` up, modulo 2^32, is one of the 32 bytes of ENGINE's register block. -/
def touchesEngine (p : Params) (a : Addr) (n : Nat) : Prop :=
  ∃ i < n, (a + BitVec.ofNat 32 i - p.engineBase).toNat < 0x20

/-- One of the `n` bytes from host byte address `a` up, modulo 2^32, is one of the 0x2C bytes of CTRL's register block
(notes/assumptions/11.md). -/
def touchesCtrl (p : Params) (a : Addr) (n : Nat) : Prop :=
  ∃ i < n, (a + BitVec.ofNat 32 i - p.ctrlBase).toNat < 0x2C

/-! ### The controller (R41) -/

/-- The invariants of C.PH (R41). -/
structure Ctrl.Consistent (c : Ctrl) : Prop where
  busy : c.busy = true ↔ c.phase ≠ .free
  txis : c.txis = true ↔ c.phase = .awaitTx
  tcr : c.tcr = true ↔ c.phase = .reloadWait
  counted : c.phase = .awaitTx → c.nbytes ≠ 0#8

/-- Whether a frame is open on the wire and how its last byte was answered (R42). -/
inductive BusFrame where
  | closed
  | started
  | acked
  | nacked
  deriving DecidableEq, Repr

/-- A frame runs from an S to the next P: S, the address byte, data bytes, P. After a NACK only P may follow. -/
def BusFrame.next : BusFrame → WireEvent → Option BusFrame
  | .closed, .start => some .started
  | .started, .addr _ _ .ack => some .acked
  | .started, .addr _ _ .nack => some .nacked
  | .acked, .data _ .ack => some .acked
  | .acked, .data _ .nack => some .nacked
  | .acked, .stop => some .closed
  | .nacked, .stop => some .closed
  | _, _ => none

/-- The frame state after the events of a log; none if the log is no sequence of frames. -/
def frameAfter : BusFrame → List WireEvent → Option BusFrame
  | f, [] => some f
  | f, ev :: w => (f.next ev).bind fun g => frameAfter g w

/-- The frame state that belongs to a phase. -/
def Phase.frame : Phase → BusFrame
  | .free => .closed
  | .addr => .started
  | .awaitTx | .data | .reloadWait | .segEmpty | .stopping => .acked
  | .nackHold => .nacked

/-- The wire log is a sequence of frames of which at most the last is open, as the phase says (R42, R122). -/
def State.wireFramed (s : State) : Prop := frameAfter .closed s.wire = some s.ctl.phase.frame

/-! ### ENGINE (R34) -/

/-- The counters of the header stream: R34, third item. -/
def Engine.inHeader (e : Engine) : Prop :=
  1 ≤ e.seg.toNat ∧ e.seg.toNat ≤ e.lHl.toNat ∧ e.pushed = e.lHl - e.seg.setWidth 32 ∧ e.rem = e.lPl

/-- The counters of the payload stream: R34, fourth item. -/
def Engine.inPayload (e : Engine) : Prop :=
  1 ≤ e.seg.toNat ∧ e.seg.toNat ≤ e.rem.toNat ∧ e.pushed = e.lHl + e.lPl - e.rem

/-- The counters of a reload wait: R34, fifth item. The first reload wait is the one with REM = L_PL. -/
def Engine.inReload (e : Engine) : Prop :=
  e.seg = 0#8 ∧ (e.rem ≠ 0#32 ∨ e.rem = e.lPl) ∧ e.pushed = e.lHl + e.lPl - e.rem

/-- No verdict yet, and no cause. -/
def Engine.undecided (e : Engine) : Prop := e.out = false ∧ e.cause = .noCause

/-- The counters and verdict fields of ENGINE in micro-state `m` (R34, R32). -/
def Engine.countedIn (e : Engine) (m : Micro) : Prop :=
  match m with
  | .idle => e.undecided
  | .chkBusy | .setAddr | .setDir | .setNbH => e.undecided ∧ e.seg = 0#8 ∧ e.pushed = 0#32 ∧ e.rem = e.lPl
  | .setAe | .setRl | .start => e.undecided ∧ e.seg = headerLen e ∧ e.pushed = 0#32 ∧ e.rem = e.lPl
  | .hNack | .hTx | .hPush => e.undecided ∧ e.inHeader
  | .rpTcr | .pSetNb => e.undecided ∧ e.inReload
  | .pClrRl =>
    e.undecided ∧ e.seg.setWidth 32 = e.rem ∧ (e.rem ≠ 0#32 ∨ e.rem = e.lPl) ∧ e.pushed = e.lHl + e.lPl - e.rem
  | .pNack | .pTx | .pPush => e.undecided ∧ e.inPayload
  | .rjClrN | .rjClrRl => e.out = false ∧ e.cause = .nack
  | .doneC => e.rem = 0#32 ∧ e.seg = 0#8 ∧ e.out = true ∧ e.cause = .noCause ∧ e.pushed = e.lHl + e.lPl
  | .doneR => e.out = false ∧ e.cause ≠ .noCause

/-- The invariants of ENGINE (R34), with the bound on the header length. -/
structure Engine.Counted (e : Engine) : Prop where
  remLe : e.rem.toNat ≤ e.lPl.toNat
  headerLe : e.ms.active = true → e.lHl.toNat ≤ 255
  counters : e.countedIn e.ms

/-! ### ENGINE and the controller together -/

/-- In a byte wait the controller has the bytes of the segment still to come, or the device has refused one and NACKF says so
(R161, R190, R196). -/
def Ctrl.inSegment (c : Ctrl) (seg : Byte) : Prop :=
  ((c.phase = .addr ∨ c.phase = .awaitTx ∨ c.phase = .data) ∧ c.nbytes = seg) ∨
  ((c.phase = .nackHold ∨ c.phase = .free) ∧ c.nackf = true)

/-- In a reload wait the segment is used up and reload is set, or the device has refused a byte (R186, R196). -/
def Ctrl.endOfSegment (c : Ctrl) : Prop :=
  c.reload = true ∧
  (((c.phase = .addr ∨ c.phase = .data ∨ c.phase = .reloadWait) ∧ c.nbytes = 0#8) ∨
   ((c.phase = .nackHold ∨ c.phase = .free) ∧ c.nackf = true))

/-- The phases of the rejection exit (R165): never RELOAD_WAIT. -/
def Ctrl.exiting (c : Ctrl) : Prop :=
  ((c.phase = .addr ∨ c.phase = .awaitTx ∨ c.phase = .data) ∧ c.nbytes ≠ 0#8) ∨ c.phase = .nackHold ∨ c.phase = .free

/-- What holds between ENGINE in micro-state `m` and the controller when ENGINE alone issues ops. -/
def linkedIn (e : Engine) (c : Ctrl) (m : Micro) : Prop :=
  match m with
  | .idle | .doneC | .doneR | .chkBusy => c.reload = false
  | .setAddr | .setDir => c.reload = false ∧ c.phase = .free
  | .setNbH => c.reload = false ∧ c.phase = .free ∧ c.rdWrn = false
  | .setAe => c.reload = false ∧ c.phase = .free ∧ c.rdWrn = false ∧ c.nbytes = e.seg
  | .setRl => c.reload = false ∧ c.phase = .free ∧ c.rdWrn = false ∧ c.nbytes = e.seg ∧ c.autoend = true
  | .start => c.reload = true ∧ c.phase = .free ∧ c.rdWrn = false ∧ c.nbytes = e.seg ∧ c.autoend = true
  | .hNack | .hTx => c.reload = true ∧ c.inSegment e.seg
  | .hPush => c.reload = true ∧ c.phase = .awaitTx ∧ c.nbytes = e.seg
  | .rpTcr => c.endOfSegment
  | .pSetNb => c.reload = true ∧ c.phase = .reloadWait
  | .pClrRl =>
    c.reload = true ∧ c.nbytes = e.seg ∧
      ((c.phase = .awaitTx ∧ e.seg ≠ 0#8) ∨ (c.phase = .segEmpty ∧ e.seg = 0#8))
  | .pNack | .pTx => (c.reload = false ↔ e.seg.setWidth 32 = e.rem) ∧ c.phase ≠ .addr ∧ c.inSegment e.seg
  | .pPush => (c.reload = false ↔ e.seg.setWidth 32 = e.rem) ∧ c.phase = .awaitTx ∧ c.nbytes = e.seg
  | .rjClrN | .rjClrRl => c.exiting

/-- What holds between ENGINE and the controller: an open frame is a write with auto-stop armed, and RELOAD_WAIT means reload
is set. -/
structure Linked (e : Engine) (c : Ctrl) : Prop where
  armed : c.phase ≠ .free → c.autoend = true ∧ c.rdWrn = false
  waiting : c.phase = .reloadWait → c.reload = true
  stage : linkedIn e c e.ms

/-- No input of a driver of CTRL alone is waiting: only the block's own agents will move. -/
def Move.isBlock : Move → Bool
  | .block _ => true
  | .opWord _ => false
  | .ctrlAccess _ => false

/-- Only the block's own agents move. -/
def State.closed (s : State) : Prop := ∀ m ∈ s.script, m.isBlock = true

/-- The invariant of the block: R34, R41, and the link between them, with FAULT empty. -/
structure State.Sound (s : State) : Prop where
  noFault : s.fault = []
  closed : s.closed
  ctrl : s.ctl.Consistent
  engine : s.eng.Counted
  link : Linked s.eng s.ctl

/-! ### What a request has sent (R194, R195) -/

/-- The header bytes sent so far (R163). -/
def headerSentCount (e : Engine) : Nat :=
  match e.ms with
  | .idle | .chkBusy | .setAddr | .setDir | .setNbH | .setAe | .setRl | .start => 0
  | .hNack | .hTx | .hPush => e.lHl.toNat - e.seg.toNat
  | .rpTcr | .pSetNb | .pClrRl | .pNack | .pTx | .pPush | .doneC => e.lHl.toNat
  | .rjClrN | .rjClrRl | .doneR => 0

/-- The bytes of HOSTMEM from `a`, in ascending address order (R62, R64). -/
def bufferBytes (p : Params) (s : State) (a : Addr) (n : Nat) : List Byte :=
  (List.range n).map fun k => s.byteAt p (a + BitVec.ofNat 32 k)

/-- The bytes the request has sent so far: header bytes, then payload bytes (R63). -/
def sentBytes (p : Params) (s : State) : List Byte :=
  bufferBytes p s s.eng.lHp (headerSentCount s.eng) ++ bufferBytes p s s.eng.lPp (s.eng.lPl.toNat - s.eng.rem.toNat)

/-- The SETNBYTES operands of a payload of `k` bytes: 255 for each segment but the last, then the rest (R187, R194). -/
def segmentLengths (k : Nat) : List Byte :=
  List.replicate ((k - 1) / 255) 255 ++ [BitVec.ofNat 8 (k - 255 * ((k - 1) / 255))]

/-- The number of payload segments, max(1, ceil(k / 255)) (R194). -/
def segmentCount (k : Nat) : Nat := max 1 ((k + 254) / 255)

/-- The number of ops of a Completed request under the eager schedule (R198). -/
def opCount (hl k : Nat) : Nat := 7 + 3 * hl + 2 * segmentCount k + 1 + 3 * k

/-- ENGINE is in the course of sending a request: active, and not on the rejection exit. -/
def Micro.sending (m : Micro) : Bool := m.active && m != .rjClrN && m != .rjClrRl

/-- While a request is being sent and HOST has kept its buffers, the bytes pushed are the buffers' bytes in order (R62, R63,
R195). -/
def State.bytesInOrder (p : Params) (s : State) : Prop :=
  s.eng.ms.sending = true → s.stale = [] → pushesOf s.trace = sentBytes p s

/-- E.PUSHED counts the PUSH ops of the request modulo 2^32 (R30). -/
def State.pushesCounted (s : State) : Prop := s.eng.pushed = BitVec.ofNat 32 (pushesOf s.trace).length

/-- The rejection flag is cleared once on a rejection exit and never otherwise (R164, R196). -/
def State.clearedOnce (s : State) : Prop :=
  countOf .clrnack s.trace = if s.eng.ms = .rjClrRl ∨ (s.eng.ms = .doneR ∧ s.eng.cause = .nack) then 1 else 0

/-- ENGINE hangs in the reload wait: the device has refused a byte and no reload-required will come (R217, HG1). -/
structure State.Hung (s : State) : Prop where
  noFault : s.fault = []
  closed : s.closed
  ctrl : s.ctl.Consistent
  waits : s.eng.ms = .rpTcr
  refused : s.ctl.phase = .nackHold ∨ s.ctl.phase = .free

/-! ### Frames of statements -/

/-- What no op of CTRL touches: the host registers, ENGINE's registers, every byte of HOSTMEM, and the model's own fields but
the response. -/
structure OpFrame (s t : State) : Prop where
  host : t.host = s.host
  eng : t.eng = s.eng
  mem : ∀ a, t.mem.read a = s.mem.read a
  trace : t.trace = s.trace
  rdata : t.rdata = s.rdata
  stale : t.stale = s.stale
  script : t.script = s.script
  tick : t.tick = s.tick

/-- A next state changed by `f`; a stop is left as it is. -/
def mapNext (f : State → State) : Result → Result
  | .next s => .next (f s)
  | .fault r => .fault r
  | .refused r => .refused r

/-! ### Runs -/

/-- An infinite run of a block with parameters `p`. -/
def IsRun (p : Params) (r : Nat → State) : Prop := ∀ n, advance p (r n) = .next (r (n + 1))

/-- The move is a step of BUS. -/
def Move.isBus : Move → Bool
  | .block (.bus _) => true
  | .block (.engine _) | .block (.host _) | .block .reset => false
  | .opWord _ | .ctrlAccess _ => false

/-- Weak fairness of BUS (R120): a BUS step that stays enabled is eventually taken. -/
def WeaklyFair (p : Params) (r : Nat → State) : Prop :=
  ∀ n, ∃ m, n ≤ m ∧ (busEnabled p (r m) = false ∨ (nextMove p (r m)).isBus = true)

/-- Every enabled BUS step fires, each answer ACK. At most two in a row are enabled; the fuel is three. -/
def settle (p : Params) : Nat → State → Result
  | 0, s => .next s
  | n + 1, s =>
    if busEnabled p s then
      match busStep p .ack s with
      | .next t => settle p n t
      | .fault f => .fault f
      | .refused r => .refused r
    else .next s

/-- One round of the eager schedule with every answer ACK: BUS settles, then ENGINE steps (R198). -/
def eagerRound (p : Params) (s : State) : Result :=
  match settle p 3 s with
  | .next t => engineStep p 0 t
  | .fault f => .fault f
  | .refused r => .refused r

/-- `n` rounds of the eager schedule. -/
def eagerRun (p : Params) : Nat → State → Result
  | 0, s => .next s
  | n + 1, s =>
    match eagerRound p s with
    | .next t => eagerRun p n t
    | .fault f => .fault f
    | .refused r => .refused r

/-- A buffer of `n` bytes that ENGINE can read: legally placed and admitted (R67, R68). -/
def readable (p : Params) (a : Addr) (n : Nat) : Prop :=
  overlapsRegisters p a n = false ∧ ∀ k < n, p.admits (a + BitVec.ofNat 32 k) = true

end Sys2Proof.Machine
end

