-- ==== Sys2Proof/Certificates/Slice0/Obligations.lean ====
section
/-! DEFINITION. The statements for the provers. Each docstring names the rules of spec/ it formalises. In the statements of ops
and micro-states, `resp` is the model's field for the response R of R82 (notes/assumptions/14.md) and `trace` its list for the
op trace of R168 (notes/assumptions/15.md). -/

open Sys2Proof Sys2Proof.Machine

/-! ### Reset -/

/-- R44: every row of the reset table; the three further bits of CR2.SADD are 0 with CR2's reset value (R37). -/
def Obligations.ResetLeavesSpecValues : Prop :=
  State.reset.host = { addr := 0, hdrPtr := 0, hdrLen := 0, payPtr := 0, payLen := 0 } ∧
  State.reset.eng =
    { lAddr := 0, lHp := 0, lHl := 0, lPp := 0, lPl := 0, seg := 0, rem := 0, out := false, cause := .noCause,
      pushed := 0, ms := .idle } ∧
  State.reset.ctl =
    { sadd7 := 0, saddRest := 0, rdWrn := false, nbytes := 0, autoend := false, reload := false, txdr := 0, txis := false,
      tcr := false, nackf := false, busy := false, phase := .free } ∧
  State.reset.wire = [] ∧ State.reset.fault = [] ∧
  readReg State.reset .status = 0x00000000#32 ∧ readReg State.reset .pushed = 0#32

/-- R237, R238: RESET, in any state with FAULT empty and whoever makes it the next move, puts ENGINE, the request registers and
CTRL at their reset values. -/
def Obligations.ResetRestoresEngineAndController : Prop :=
  ∀ (p : Params) (s : State), s.fault = [] → nextMove p s = .block .reset →
    ∃ t, advance p s = .next t ∧
      t.host = { addr := 0, hdrPtr := 0, hdrLen := 0, payPtr := 0, payLen := 0 } ∧
      t.eng =
        { lAddr := 0, lHp := 0, lHl := 0, lPp := 0, lPl := 0, seg := 0, rem := 0, out := false, cause := .noCause,
          pushed := 0, ms := .idle } ∧
      t.ctl =
        { sadd7 := 0, saddRest := 0, rdWrn := false, nbytes := 0, autoend := false, reload := false, txdr := 0, txis := false,
          tcr := false, nackf := false, busy := false, phase := .free } ∧
      t.wire = [] ∧ t.fault = [] ∧ readReg t .status = 0x00000000#32 ∧ readReg t .pushed = 0#32 ∧
      cr2Word t.ctl = 0x00000000#32 ∧
      ∀ v : Word, isrWord v t.ctl &&& 0x00008092#32 = 0#32 ∧ isrWord v t.ctl &&& 0xFFFF7F6D#32 = v &&& 0xFFFF7F6D#32

/-! ### Encoding -/

/-- 95_test_vectors.md section 2.1, from R84, R85, R86: words written out from the encodings. -/
def Obligations.DecodesTheWordsOfTheSpec : Prop :=
  decodeOp 0x103C#16 = .instr (.setaddr 0x3C#7) ∧ decodeOp 0x107F#16 = .instr (.setaddr 0x7F#7) ∧
  decodeOp 0x2001#16 = .instr (.setdir true) ∧ decodeOp 0x30FF#16 = .instr (.setnbytes 255#8) ∧
  decodeOp 0x4001#16 = .instr (.setautoend true) ∧ decodeOp 0x5000#16 = .instr (.setreload false) ∧
  decodeOp 0x6000#16 = .instr .start ∧ decodeOp 0x7000#16 = .instr .polltxis ∧
  decodeOp 0x8000#16 = .instr .polltcr ∧ decodeOp 0x9000#16 = .instr .pollnack ∧
  decodeOp 0xA000#16 = .instr .clrnack ∧ decodeOp 0xB000#16 = .instr .pollbusy ∧
  decodeOp 0xC0FF#16 = .instr (.push 0xFF#8) ∧ decodeHostCmd 0xFFFFFFFF#32 = .instr .go ∧
  decodeOp 0x1080#16 = .invalid .strayBits ∧ decodeOp 0xB800#16 = .invalid .strayBits ∧
  decodeOp 0xD000#16 = .invalid .reservedOpc ∧ decodeHostCmd 0x00000002#32 = .invalid .noCommand

/-- R83, R84, R86, R90: decoding gives back every encoded instruction, with every operand value, also through the bytes of the
op word as the table numbers them; and every encoded op is a legal word. -/
def Obligations.DecodeEncodeRoundTrip : Prop :=
  ∀ i : Instr, decode (encode i) = .instr i ∧
    (i.isOp = true → legalOpWord (encodeOp i) = true ∧ decodeTableWord 16 (encodeOp i).toNat = some i) ∧
    (i.isOp = false → decodeTableWord 32 1 = some i)

/-- R84, R90: an op word decodes to `i` exactly when it is the encoding of `i`, so no bit is dropped; the words that decode are
those a row of the opcode map accepts, one row each; a word with a reserved OPC is invalid for that reason. -/
def Obligations.DecoderAcceptsExactlyTheLegalWords : Prop :=
  ∀ w : OpWord,
    (∀ i, decodeOp w = .instr i ↔ i.isOp = true ∧ encodeOp i = w) ∧
    (legalOpWord w = true ↔ ∃ i, decodeOp w = .instr i) ∧
    (∀ i, decodeOp w = .instr i → rowsOf w = [mnemonicOf i]) ∧
    (opcOf w = 0x0#4 ∨ opcOf w = 0xD#4 ∨ opcOf w = 0xE#4 ∨ opcOf w = 0xF#4 → decodeOp w = .invalid .reservedOpc)

/-- R86: a write of H.CMD is GO when bit 0 is 1, whatever bits [31:1] are, and a no-op when bit 0 is 0. -/
def Obligations.HostCommandWordIssuesGo : Prop :=
  ∀ (v : Word) (s : State),
    (v.getLsbD 0 = true → decodeHostCmd v = .instr .go ∧ writeReg .cmd v s = exec .go s) ∧
    (v.getLsbD 0 = false → writeReg .cmd v s = .next s) ∧
    encode .go = .hostCmd 0x00000001#32

/-! ### The step -/

/-- A step runs the decoded instruction. When the next move hands CTRL an op word that decodes to `i`, the step is `exec i` on
the state with that move taken, and a word that no row accepts is refused; HOST's write of H.CMD at offset 0x14 with bit 0 = 1 is
`exec .go`. The step adds nothing around `exec` but taking the move, which `StepRunsTheBlocksAgents` spells out; the moves and
their order are the model's own (notes/assumptions/1.md, 3.md). -/
def Obligations.StepRunsTheDecodedInstruction : Prop :=
  ∀ s : State, s.fault = [] →
    (∀ (w : OpWord) (i : Instr), nextMove Config.params s = .opWord w → decodeOp w = .instr i →
      step s = exec i (popMove s)) ∧
    (∀ w : OpWord, nextMove Config.params s = .opWord w → legalOpWord w = false → step s = .refused (.illegalOp w)) ∧
    (∀ v : Word, nextMove Config.params s = .block (.host (.wr 0x14 .word (v.setWidth 64))) → v.getLsbD 0 = true →
      step s = exec .go (popMove s))

/-- A step runs the agent whose move is next, RESET, or a driver's register access, on the state with the move taken (R5, R69,
R215). The next move is the head of the queue, which loses it; when the queue is empty it is the environment's free value, and
the counter goes up by one (the model's own, notes/assumptions/1.md; the driver's accesses, notes/assumptions/3.md). -/
def Obligations.StepRunsTheBlocksAgents : Prop :=
  ∀ s : State,
    (∀ m ms, s.script = m :: ms → nextMove Config.params s = m ∧ popMove s = { s with script := ms }) ∧
    (s.script = [] →
      nextMove Config.params s = .block (Config.environment s.tick) ∧ popMove s = { s with tick := s.tick + 1 }) ∧
    (s.fault = [] →
      (∀ d, nextMove Config.params s = .block (.engine d) → step s = engineStep Config.params d (popMove s)) ∧
      (∀ a, nextMove Config.params s = .block (.bus a) → step s = busStep Config.params a (popMove s)) ∧
      (∀ h, nextMove Config.params s = .block (.host h) → step s = hostStep Config.params h (popMove s)) ∧
      (nextMove Config.params s = .block .reset → step s = .next (resetStep (popMove s))) ∧
      ∀ x, nextMove Config.params s = .ctrlAccess x → step s = ctrlAccess Config.params x (popMove s))

/-- R215: the step that raises a fault adds its reason to FAULT and makes no other change (taking the move aside); once FAULT is
not empty no step is enabled, RESET included. That a step of such a state is the outcome `fault` is the model's choice
(notes/assumptions/5.md). -/
def Obligations.FaultsAreStickyAndChangeNothingElse : Prop :=
  ∀ (p : Params) (s : State),
    (∀ t, advance p s = .next t → t.fault ≠ [] → ∃ r, t = { popMove s with fault := [r] }) ∧
    (s.fault ≠ [] → advance p s = .fault (.quiescent s.fault))

/-! ### The ops -/

/-- R102; the other three bits of CR2.SADD become 0 (R37, R89). -/
def Obligations.SetaddrEffect : Prop :=
  ∀ (a : Target) (s : State),
    encodeOp (.setaddr a) = 0x1000#16 ||| a.setWidth 16 ∧
    (s.ctl.phase = .free → exec (.setaddr a) s =
      .next { s with ctl := { s.ctl with sadd7 := a, saddRest := 0#3 }, resp := none }) ∧
    (s.ctl.phase ≠ .free → s.fault = [] → exec (.setaddr a) s = .next { s with fault := [.cfgWhileBusy] })

/-- R103, with the START that follows a SETDIR 1. -/
def Obligations.SetdirEffect : Prop :=
  ∀ (d : Bool) (s : State),
    encodeOp (.setdir d) = 0x2000#16 ||| (BitVec.ofBool d).setWidth 16 ∧
    (s.ctl.phase = .free →
      exec (.setdir d) s = .next { s with ctl := { s.ctl with rdWrn := d }, resp := none } ∧
      (s.fault = [] → s.ctl.rdWrn = true → exec .start s = .next { s with fault := [.startRead] })) ∧
    (s.ctl.phase ≠ .free → s.fault = [] → exec (.setdir d) s = .next { s with fault := [.cfgWhileBusy] })

/-- R104. -/
def Obligations.SetnbytesEffect : Prop :=
  ∀ (n : Byte) (s : State),
    encodeOp (.setnbytes n) = 0x3000#16 ||| n.setWidth 16 ∧
    (s.ctl.phase = .free → exec (.setnbytes n) s = .next { s with ctl := { s.ctl with nbytes := n }, resp := none }) ∧
    (s.ctl.phase = .reloadWait → n ≠ 0#8 →
      exec (.setnbytes n) s =
        .next { s with ctl := { s.ctl with nbytes := n, tcr := false, txis := true, phase := .awaitTx }, resp := none }) ∧
    (s.ctl.phase = .reloadWait → n = 0#8 →
      exec (.setnbytes n) s =
        .next { s with ctl := { s.ctl with nbytes := 0#8, tcr := false, phase := .segEmpty }, resp := none }) ∧
    (s.ctl.phase = .addr ∨ s.ctl.phase = .awaitTx ∨ s.ctl.phase = .data → s.fault = [] →
      exec (.setnbytes n) s = .next { s with fault := [.nbytesOpenSegment] }) ∧
    (s.ctl.phase = .segEmpty ∨ s.ctl.phase = .stopping ∨ s.ctl.phase = .nackHold → s.fault = [] →
      exec (.setnbytes n) s = .next { s with fault := [.nbytesNoSegment] })

/-- R105, with where AUTOEND is read: only at the end of a segment with RELOAD = 0, where 0 faults. -/
def Obligations.SetautoendEffect : Prop :=
  ∀ (e : Bool) (s : State),
    encodeOp (.setautoend e) = 0x4000#16 ||| (BitVec.ofBool e).setWidth 16 ∧
    (s.ctl.phase = .free → exec (.setautoend e) s = .next { s with ctl := { s.ctl with autoend := e }, resp := none }) ∧
    (s.ctl.phase ≠ .free → s.fault = [] → exec (.setautoend e) s = .next { s with fault := [.cfgWhileBusy] }) ∧
    (s.ctl.nbytes ≠ 0#8 ∨ s.ctl.reload = true →
      Ctrl.afterAck { s.ctl with autoend := e } = s.ctl.afterAck.map fun c => { c with autoend := e }) ∧
    (s.ctl.nbytes = 0#8 → s.ctl.reload = false → Ctrl.afterAck { s.ctl with autoend := false } = none)

/-- R106. -/
def Obligations.SetreloadEffect : Prop :=
  ∀ (r : Bool) (s : State),
    encodeOp (.setreload r) = 0x5000#16 ||| (BitVec.ofBool r).setWidth 16 ∧
    (r = true ∨ s.ctl.phase ≠ .reloadWait →
      exec (.setreload r) s = .next { s with ctl := { s.ctl with reload := r }, resp := none }) ∧
    (r = false → s.ctl.phase = .reloadWait → s.fault = [] →
      exec (.setreload r) s = .next { s with fault := [.reloadClearedInTcr] })

/-- R107, R219 item 3: F_START_BUSY is tested before F_START_READ. -/
def Obligations.StartEffect : Prop :=
  ∀ s : State,
    encodeOp .start = 0x6000#16 ∧
    (s.ctl.phase = .free → s.ctl.rdWrn = false →
      exec .start s =
        .next { s with ctl := { s.ctl with busy := true, phase := .addr }, wire := s.wire ++ [.start], resp := none }) ∧
    (s.ctl.phase ≠ .free → s.fault = [] → exec .start s = .next { s with fault := [.startBusy] }) ∧
    (s.ctl.phase = .free → s.ctl.rdWrn = true → s.fault = [] → exec .start s = .next { s with fault := [.startRead] })

/-- R108 to R110, R112: a poll answers with its flag and changes nothing; TXIS, TCR and BUSY say what R41 says of PH. -/
def Obligations.PollsAnswerTheirFlags : Prop :=
  ∀ s : State,
    encodeOp .polltxis = 0x7000#16 ∧ encodeOp .polltcr = 0x8000#16 ∧ encodeOp .pollnack = 0x9000#16 ∧
    encodeOp .pollbusy = 0xB000#16 ∧
    exec .polltxis s = .next { s with resp := some s.ctl.txis } ∧
    exec .polltcr s = .next { s with resp := some s.ctl.tcr } ∧
    exec .pollnack s = .next { s with resp := some s.ctl.nackf } ∧
    exec .pollbusy s = .next { s with resp := some s.ctl.busy } ∧
    (s.ctl.Consistent →
      (s.ctl.txis = true ↔ s.ctl.phase = .awaitTx) ∧ (s.ctl.tcr = true ↔ s.ctl.phase = .reloadWait) ∧
      (s.ctl.busy = true ↔ s.ctl.phase ≠ .free))

/-- R111. -/
def Obligations.ClrnackEffect : Prop :=
  ∀ s : State, encodeOp .clrnack = 0xA000#16 ∧
    exec .clrnack s = .next { s with ctl := { s.ctl with nackf := false }, resp := none }

/-- R113. -/
def Obligations.PushEffect : Prop :=
  ∀ (b : Byte) (s : State),
    encodeOp (.push b) = 0xC000#16 ||| b.setWidth 16 ∧
    (s.ctl.txis = true →
      exec (.push b) s =
        .next { s with
          ctl := { s.ctl with txdr := b, txis := false, nbytes := s.ctl.nbytes - 1#8, phase := .data }, resp := none }) ∧
    (s.ctl.txis = false → s.fault = [] → exec (.push b) s = .next { s with fault := [.pushNotReady] })

/-- R82: every op completes in one step; the polls return their flag, and the other eight ops return nothing. -/
def Obligations.EveryOpCompletesInOneStep : Prop :=
  ∀ (i : Instr) (s : State), i.isOp = true → s.fault = [] →
    ∃ t, exec i s = .next t ∧
      (i = .polltxis → t.resp = some s.ctl.txis) ∧ (i = .polltcr → t.resp = some s.ctl.tcr) ∧
      (i = .pollnack → t.resp = some s.ctl.nackf) ∧ (i = .pollbusy → t.resp = some s.ctl.busy) ∧
      (t.fault = [] → i ≠ .polltxis → i ≠ .polltcr → i ≠ .pollnack → i ≠ .pollbusy → t.resp = none)

/-- R35, R36, R41 (their "written by" columns), R42, R215: what each op leaves unchanged. -/
def Obligations.OpsChangeOnlyTheirRegisters : Prop :=
  ∀ (i : Instr) (s t : State), i.isOp = true → s.fault = [] → exec i s = .next t →
    OpFrame s t ∧
    ((∀ a, i ≠ .setaddr a) → t.ctl.sadd7 = s.ctl.sadd7 ∧ t.ctl.saddRest = s.ctl.saddRest) ∧
    ((∀ d, i ≠ .setdir d) → t.ctl.rdWrn = s.ctl.rdWrn) ∧
    ((∀ n, i ≠ .setnbytes n) → (∀ b, i ≠ .push b) → t.ctl.nbytes = s.ctl.nbytes ∧ t.ctl.txis = s.ctl.txis) ∧
    ((∀ e, i ≠ .setautoend e) → t.ctl.autoend = s.ctl.autoend) ∧
    ((∀ r, i ≠ .setreload r) → t.ctl.reload = s.ctl.reload) ∧
    ((∀ b, i ≠ .push b) → t.ctl.txdr = s.ctl.txdr) ∧
    ((∀ n, i ≠ .setnbytes n) → t.ctl.tcr = s.ctl.tcr) ∧
    (i ≠ .clrnack → t.ctl.nackf = s.ctl.nackf) ∧
    (i ≠ .start → t.ctl.busy = s.ctl.busy ∧ t.wire = s.wire) ∧
    ((∀ n, i ≠ .setnbytes n) → (∀ b, i ≠ .push b) → i ≠ .start → t.ctl.phase = s.ctl.phase) ∧
    (t.fault ≠ [] → ∃ r, t = { s with fault := [r] })

/-! ### GO -/

/-- R151, R152: GO latches the request and initialises the counters, and writes no CTRL state, no memory and no wire event; while
a request is active it has no effect. -/
def Obligations.GoStartsARequest : Prop :=
  ∀ s : State,
    (s.eng.ms = .idle ∨ s.eng.ms = .doneC ∨ s.eng.ms = .doneR →
      ∃ t, exec .go s = .next t ∧
        t.eng =
          { lAddr := s.host.addr, lHp := s.host.hdrPtr, lHl := s.host.hdrLen, lPp := s.host.payPtr,
            lPl := s.host.payLen, seg := 0, rem := s.host.payLen, out := false,
            cause := if 255 < s.host.hdrLen.toNat then .hdrTooLong else .noCause, pushed := 0,
            ms := if 255 < s.host.hdrLen.toNat then .doneR else .chkBusy } ∧
        t.host = s.host ∧ t.ctl = s.ctl ∧ t.wire = s.wire ∧ t.fault = s.fault ∧ t.resp = s.resp ∧ t.rdata = s.rdata ∧
        t.script = s.script ∧ t.tick = s.tick ∧ ∀ a, t.mem.read a = s.mem.read a) ∧
    ((readReg s .status).getLsbD 7 = true → exec .go s = .next s)

/-- R153, R212, R219 item 1: a header of more than 255 bytes, compared on all 32 bits, is rejected at GO whatever the bus does,
and no op is issued. -/
def Obligations.LongHeaderIsRejectedAtGo : Prop :=
  ∀ s : State, s.eng.ms.active = false → 255 < s.host.hdrLen.toNat →
    ∃ t, exec .go s = .next t ∧ t.eng.cause = .hdrTooLong ∧ t.eng.out = false ∧ t.eng.pushed = 0#32 ∧
      t.eng.ms = .doneR ∧ readReg t .status = 0x00001455#32 ∧ t.trace = [] ∧ t.ctl = s.ctl ∧ t.wire = s.wire

/-! ### BUS -/

/-- R115, R116: the device's answer to the address and to a data byte; an ACK is followed by the end-of-byte procedure. -/
def Obligations.DeviceAnswersTheLastByte : Prop :=
  ∀ (p : Params) (s : State),
    (s.ctl.phase = .addr →
      busStep p .nack s =
        .next { s with
                wire := s.wire ++ [.addr s.ctl.sadd7 s.ctl.rdWrn .nack],
                ctl := { s.ctl with nackf := true, phase := .nackHold } } ∧
      ∀ c, s.ctl.afterAck = some c →
        busStep p .ack s = .next { s with wire := s.wire ++ [.addr s.ctl.sadd7 s.ctl.rdWrn .ack], ctl := c }) ∧
    (s.ctl.phase = .data →
      busStep p .nack s =
        .next { s with
                wire := s.wire ++ [.data s.ctl.txdr .nack],
                ctl := { s.ctl with nackf := true, phase := .nackHold } } ∧
      ∀ c, s.ctl.afterAck = some c →
        busStep p .ack s = .next { s with wire := s.wire ++ [.data s.ctl.txdr .ack], ctl := c })

/-- R114, and R215 for a step that raises F_AUTOEND_OFF: that it logs no event is the model's reading (notes/assumptions/6.md). -/
def Obligations.EndOfByteProcedure : Prop :=
  ∀ (p : Params) (s : State),
    (s.ctl.nbytes ≠ 0#8 → s.ctl.afterAck = some { s.ctl with txis := true, phase := .awaitTx }) ∧
    (s.ctl.nbytes = 0#8 → s.ctl.reload = true →
      s.ctl.afterAck = some { s.ctl with tcr := true, phase := .reloadWait }) ∧
    (s.ctl.nbytes = 0#8 → s.ctl.reload = false → s.ctl.autoend = true →
      s.ctl.afterAck = some { s.ctl with phase := .stopping }) ∧
    (s.ctl.nbytes = 0#8 → s.ctl.reload = false → s.ctl.autoend = false → s.fault = [] →
      s.ctl.phase = .addr ∨ s.ctl.phase = .data → busStep p .ack s = .next { s with fault := [.autoendOff] })

/-- R118, with when each BUS step is enabled (R115 to R119) and the effects of B_EMPTY and B_NACK_RELEASE. -/
def Obligations.BusEndsSegmentsAndFrames : Prop :=
  ∀ (p : Params) (a : Ack) (s : State),
    (s.ctl.phase = .stopping →
      busStep p a s =
        .next { s with wire := s.wire ++ [.stop], ctl := { s.ctl with busy := false, phase := .free } }) ∧
    (s.ctl.phase = .segEmpty → s.ctl.reload = false → p.emptyFinalSegment = .stop →
      busStep p a s = .next { s with ctl := { s.ctl with phase := .stopping } }) ∧
    (s.ctl.phase = .nackHold → p.nackReleasesBus = true →
      busStep p a s =
        .next { s with wire := s.wire ++ [.stop], ctl := { s.ctl with busy := false, phase := .free } }) ∧
    (busEnabled p s = true ↔
      s.ctl.phase = .addr ∨ s.ctl.phase = .data ∨ s.ctl.phase = .stopping ∨
      (s.ctl.phase = .segEmpty ∧ s.ctl.reload = false ∧ p.emptyFinalSegment = .stop) ∨
      (s.ctl.phase = .nackHold ∧ p.nackReleasesBus = true))

/-- R120: no ENGINE op disables a BUS step that is enabled, and none changes the phase it depends on. -/
def Obligations.EngineLeavesEnabledBusSteps : Prop :=
  ∀ (p : Params) (d : Nat) (s t : State), s.Sound → busEnabled p s = true → engineStep p d s = .next t →
    busEnabled p t = true ∧ t.ctl.phase = s.ctl.phase

/-! ### ENGINE -/

/-- R154: the bus-idle precondition; in a state that meets R34 the failure reads as the STATUS word R154 gives. -/
def Obligations.EngineChecksTheBusIsIdle : Prop :=
  ∀ (p : Params) (d : Nat) (s : State), s.fault = [] → s.eng.ms = .chkBusy →
    (s.ctl.busy = false →
      engineStep p d s =
        .next { s with
                eng := { s.eng with ms := .setAddr }, resp := some false,
                trace := s.trace ++ [⟨0xB000#16, some false⟩] }) ∧
    (s.ctl.busy = true →
      engineStep p d s =
        .next { s with
                eng := { s.eng with cause := .busBusy, ms := .doneR }, resp := some true,
                trace := s.trace ++ [⟨0xB000#16, some true⟩] } ∧
      (s.eng.Counted →
        s.eng.out = false ∧ s.eng.pushed = 0#32 ∧
        statusWord { s.eng with cause := .busBusy, ms := .doneR } = 0x00001459#32))

/-- R155 to R159: the setup, one op a step. -/
def Obligations.EngineProgramsTheController : Prop :=
  ∀ (p : Params) (d : Nat) (s : State), s.fault = [] → s.ctl.phase = .free →
    (s.eng.ms = .setAddr →
      engineStep p d s =
        .next { s with
                ctl := { s.ctl with sadd7 := s.eng.lAddr, saddRest := 0#3 }, eng := { s.eng with ms := .setDir }, resp := none,
                trace := s.trace ++ [⟨0x1000#16 ||| s.eng.lAddr.setWidth 16, none⟩] }) ∧
    (s.eng.ms = .setDir →
      engineStep p d s =
        .next { s with
                ctl := { s.ctl with rdWrn := false }, eng := { s.eng with ms := .setNbH }, resp := none,
                trace := s.trace ++ [⟨0x2000#16, none⟩] }) ∧
    (s.eng.ms = .setNbH →
      engineStep p d s =
        .next { s with
                ctl := { s.ctl with nbytes := s.eng.lHl.setWidth 8 },
                eng := { s.eng with seg := s.eng.lHl.setWidth 8, ms := .setAe }, resp := none,
                trace := s.trace ++ [⟨0x3000#16 ||| (s.eng.lHl.setWidth 8).setWidth 16, none⟩] }) ∧
    (s.eng.ms = .setAe →
      engineStep p d s =
        .next { s with
                ctl := { s.ctl with autoend := true }, eng := { s.eng with ms := .setRl }, resp := none,
                trace := s.trace ++ [⟨0x4001#16, none⟩] }) ∧
    (s.eng.ms = .setRl →
      engineStep p d s =
        .next { s with
                ctl := { s.ctl with reload := true }, eng := { s.eng with ms := .start }, resp := none,
                trace := s.trace ++ [⟨0x5001#16, none⟩] })

/-- R160: START; an empty header goes straight to the reload wait. -/
def Obligations.EngineStartsTheFrame : Prop :=
  ∀ (p : Params) (d : Nat) (s : State), s.fault = [] → s.eng.ms = .start → s.ctl.phase = .free → s.ctl.rdWrn = false →
    engineStep p d s =
      .next { s with
              ctl := { s.ctl with busy := true, phase := .addr }, wire := s.wire ++ [.start],
              eng := { s.eng with ms := if s.eng.seg = 0#8 then .rpTcr else .hNack }, resp := none,
              trace := s.trace ++ [⟨0x6000#16, none⟩] }

/-- R161, R162, R190, R191: the byte waits of the header and of the payload, the rejection polled first; and the reload wait,
which polls TCR only (R186). -/
def Obligations.EngineWaitsForFlags : Prop :=
  ∀ (p : Params) (d : Nat) (s : State), s.fault = [] →
    (s.eng.ms = .hNack ∨ s.eng.ms = .pNack → s.ctl.nackf = true →
      engineStep p d s =
        .next { s with
                eng := { s.eng with cause := .nack, ms := .rjClrN }, resp := some true,
                trace := s.trace ++ [⟨0x9000#16, some true⟩] }) ∧
    (s.eng.ms = .hNack ∨ s.eng.ms = .pNack → s.ctl.nackf = false →
      engineStep p d s =
        .next { s with
                eng := { s.eng with ms := if s.eng.ms = .hNack then .hTx else .pTx }, resp := some false,
                trace := s.trace ++ [⟨0x9000#16, some false⟩] }) ∧
    (s.eng.ms = .hTx →
      engineStep p d s =
        .next { s with
                eng := { s.eng with ms := if s.ctl.txis then .hPush else .hNack }, resp := some s.ctl.txis,
                trace := s.trace ++ [⟨0x7000#16, some s.ctl.txis⟩] }) ∧
    (s.eng.ms = .pTx →
      engineStep p d s =
        .next { s with
                eng := { s.eng with ms := if s.ctl.txis then .pPush else .pNack }, resp := some s.ctl.txis,
                trace := s.trace ++ [⟨0x7000#16, some s.ctl.txis⟩] }) ∧
    (s.eng.ms = .rpTcr →
      engineStep p d s =
        .next { s with
                eng := { s.eng with ms := if s.ctl.tcr then .pSetNb else .rpTcr }, resp := some s.ctl.tcr,
                trace := s.trace ++ [⟨0x8000#16, some s.ctl.tcr⟩] })

/-- R62, R68, R69, R70: a read of an admitted byte of a legally placed buffer returns the byte of HOSTMEM at base + k modulo
2^32; after HOST has overwritten the byte while its request runs, the old or the new value, each for some draw
(notes/assumptions/13.md). -/
def Obligations.BufferReadsReturnMemoryOrADraw : Prop :=
  ∀ (p : Params) (s : State) (base len k : Word), overlapsRegisters p base len.toNat = false →
    p.admits (base + k) = true → s.stale = [] →
    (∀ d, memRead p d s base len k = .byte (s.byteAt p (base + k))) ∧
    ∀ b : Byte, s.owns (base + k) = true →
      (∀ d, memRead p d (storeByte p (base + k) b s) base len k = .byte b ∨
        memRead p d (storeByte p (base + k) b s) base len k = .byte (s.byteAt p (base + k))) ∧
      (∃ d, memRead p d (storeByte p (base + k) b s) base len k = .byte b) ∧
      (∃ d, memRead p d (storeByte p (base + k) b s) base len k = .byte (s.byteAt p (base + k))) ∧
      ∀ (j : Word) (d : Nat), base + j ≠ base + k → p.admits (base + j) = true →
        memRead p d (storeByte p (base + k) b s) base len j = .byte (s.byteAt p (base + j))

/-- R163: the byte read is the `b` of the premise; the read itself is `BufferReadsReturnMemoryOrADraw` and
`UnadmittedReadLeavesEngineStuck`. -/
def Obligations.EnginePushesAHeaderByte : Prop :=
  ∀ (p : Params) (d : Nat) (s : State) (b : Byte), s.fault = [] → s.eng.ms = .hPush → s.ctl.txis = true →
    memRead p d s s.eng.lHp s.eng.lHl (s.eng.lHl - s.eng.seg.setWidth 32) = .byte b →
    engineStep p d s =
      .next { s with
              ctl := { s.ctl with txdr := b, txis := false, nbytes := s.ctl.nbytes - 1#8, phase := .data },
              eng := { s.eng with
                       seg := s.eng.seg - 1#8, pushed := s.eng.pushed + 1#32,
                       ms := if s.eng.seg - 1#8 = 0#8 then .rpTcr else .hNack },
              resp := none, trace := s.trace ++ [⟨0xC000#16 ||| b.setWidth 16, none⟩] }

/-- R192: more of this segment, the next reload wait, or Completed. -/
def Obligations.EnginePushesAPayloadByte : Prop :=
  ∀ (p : Params) (d : Nat) (s : State) (b : Byte), s.fault = [] → s.eng.ms = .pPush → s.ctl.txis = true →
    memRead p d s s.eng.lPp s.eng.lPl (s.eng.lPl - s.eng.rem) = .byte b →
    engineStep p d s =
      .next { s with
              ctl := { s.ctl with txdr := b, txis := false, nbytes := s.ctl.nbytes - 1#8, phase := .data },
              eng := { s.eng with
                       seg := s.eng.seg - 1#8, rem := s.eng.rem - 1#32, pushed := s.eng.pushed + 1#32,
                       out := if s.eng.seg - 1#8 = 0#8 ∧ s.eng.rem - 1#32 = 0#32 then true else s.eng.out,
                       ms :=
                         if s.eng.seg - 1#8 ≠ 0#8 then .pNack
                         else if s.eng.rem - 1#32 ≠ 0#32 then .rpTcr
                         else .doneC },
              resp := none, trace := s.trace ++ [⟨0xC000#16 ||| b.setWidth 16, none⟩] }

/-- R68, R216: a read that is not admitted leaves ENGINE stuck: no op is issued and no state changes (that such a step of ENGINE
answers the state as it is: notes/assumptions/4.md). R67: a read of a buffer that has a byte in a register block is refused,
whichever byte is read (notes/assumptions/12.md). -/
def Obligations.UnadmittedReadLeavesEngineStuck : Prop :=
  ∀ (p : Params) (d : Nat) (s : State),
    ((s.eng.ms = .hPush ∧ overlapsRegisters p s.eng.lHp s.eng.lHl.toNat = false ∧
          p.admits (s.eng.lHp + (s.eng.lHl - s.eng.seg.setWidth 32)) = false) ∨
        (s.eng.ms = .pPush ∧ overlapsRegisters p s.eng.lPp s.eng.lPl.toNat = false ∧
          p.admits (s.eng.lPp + (s.eng.lPl - s.eng.rem)) = false) →
      engineStep p d s = .next s ∧ engineEnabled p s = false ∧ (readReg s .status).getLsbD 7 = true) ∧
    ((s.eng.ms = .hPush ∧
          (touchesEngine p s.eng.lHp s.eng.lHl.toNat ∨ touchesCtrl p s.eng.lHp s.eng.lHl.toNat)) ∨
        (s.eng.ms = .pPush ∧
          (touchesEngine p s.eng.lPp s.eng.lPl.toNat ∨ touchesCtrl p s.eng.lPp s.eng.lPl.toNat)) →
      engineStep p d s = .refused .bufferOverlapsRegisters)

/-- R187, R188, R189: the next payload segment has min(REM, 255) bytes and is final iff that is all of REM; reload is cleared
before the final segment; an empty payload is then complete. -/
def Obligations.EngineProgramsAPayloadSegment : Prop :=
  ∀ (p : Params) (d : Nat) (s : State), s.fault = [] →
    (s.eng.ms = .pSetNb → s.ctl.phase = .reloadWait →
      ∃ n : Byte, n.toNat = min s.eng.rem.toNat 255 ∧
        engineStep p d s =
          .next { s with
                  ctl :=
                    if n = 0#8 then { s.ctl with nbytes := n, tcr := false, phase := .segEmpty }
                    else { s.ctl with nbytes := n, tcr := false, txis := true, phase := .awaitTx },
                  eng := { s.eng with seg := n, ms := if s.eng.rem.toNat ≤ 255 then .pClrRl else .pNack },
                  resp := none, trace := s.trace ++ [⟨0x3000#16 ||| n.setWidth 16, none⟩] }) ∧
    (s.eng.ms = .pClrRl → s.ctl.phase ≠ .reloadWait →
      engineStep p d s =
        .next { s with
                ctl := { s.ctl with reload := false },
                eng := { s.eng with
                         out := if s.eng.seg = 0#8 then true else s.eng.out,
                         ms := if s.eng.seg = 0#8 then .doneC else .pNack },
                resp := none, trace := s.trace ++ [⟨0x5000#16, none⟩] })

/-- R164, R165: the rejection exit, CLRNACK and then SETRELOAD 0; in a state that meets R34 it reads as the STATUS word R165
gives. -/
def Obligations.EngineAbandonsARejectedRequest : Prop :=
  ∀ (p : Params) (d : Nat) (s : State), s.fault = [] →
    (s.eng.ms = .rjClrN →
      engineStep p d s =
        .next { s with
                ctl := { s.ctl with nackf := false }, eng := { s.eng with ms := .rjClrRl }, resp := none,
                trace := s.trace ++ [⟨0xA000#16, none⟩] }) ∧
    (s.eng.ms = .rjClrRl → s.ctl.phase ≠ .reloadWait →
      engineStep p d s =
        .next { s with
                ctl := { s.ctl with reload := false }, eng := { s.eng with ms := .doneR }, resp := none,
                trace := s.trace ++ [⟨0x5000#16, none⟩] } ∧
      (s.eng.Counted → statusWord { s.eng with ms := .doneR } = 0x0000145D#32))

/-- R166, R168: M_IDLE, M_DONEC and M_DONER have no ENGINE step; in a sound state every enabled step issues exactly one op and
raises no fault, whatever the draw. That ENGINE's move in one of those three answers the state as it is, is the model's choice
(notes/assumptions/4.md): R166 says only that there is no step. -/
def Obligations.EnabledEngineStepIssuesOneOp : Prop :=
  ∀ (p : Params) (d : Nat) (s : State),
    (s.eng.ms.active = false → engineEnabled p s = false ∧ engineStep p d s = .next s) ∧
    (s.Sound → engineEnabled p s = true →
      ∃ t, engineStep p d s = .next t ∧ t.fault = [] ∧ ∃ x, t.trace = s.trace ++ [x] ∧ legalOpWord x.word = true)

/-- R170: a step of ENGINE keeps the source state that STATUS.STATE reports, or takes one of the edges the rule lists: 0 Idle,
1 HeaderStream, 2 ReloadPending, 3 PayloadStream, 4 Completed, 5 Rejected. -/
def Obligations.EngineFollowsTheSourceStates : Prop :=
  ∀ (p : Params) (d : Nat) (s t : State), engineStep p d s = .next t →
    (statusWord t.eng).extractLsb' 4 3 = (statusWord s.eng).extractLsb' 4 3 ∨
    ((statusWord s.eng).extractLsb' 4 3, (statusWord t.eng).extractLsb' 4 3) ∈
      [(0#3, 1#3), (1#3, 5#3), (1#3, 2#3), (2#3, 3#3), (3#3, 5#3), (3#3, 2#3), (3#3, 4#3), (0#3, 5#3), (2#3, 4#3)]

/-! ### HOST -/

/-- R28, R29: the fields of H.STATUS, with the codes of R33. -/
def Obligations.StatusFields : Prop :=
  ∀ e : Engine,
    ((statusWord e).getLsbD 0 = true ↔ e.ms = .doneC ∨ e.ms = .doneR) ∧
    ((statusWord e).getLsbD 1 = true ↔ (e.ms = .doneC ∨ e.ms = .doneR) ∧ e.out = true) ∧
    (statusWord e).extractLsb' 2 2 =
      (match e.cause with | .noCause => 0#2 | .hdrTooLong => 1#2 | .busBusy => 2#2 | .nack => 3#2) ∧
    (statusWord e).extractLsb' 4 3 =
      (match e.ms with
        | .idle | .chkBusy => 0#3
        | .setAddr | .setDir | .setNbH | .setAe | .setRl | .start | .hNack | .hTx | .hPush => 1#3
        | .rpTcr | .pSetNb | .pClrRl => 2#3
        | .pNack | .pTx | .pPush => 3#3
        | .doneC => 4#3
        | .rjClrN | .rjClrRl | .doneR => 5#3) ∧
    ((statusWord e).getLsbD 7 = true ↔ e.ms ≠ .idle ∧ e.ms ≠ .doneC ∧ e.ms ≠ .doneR) ∧
    (statusWord e).extractLsb' 8 5 =
      (match e.ms with
        | .idle => 0#5 | .chkBusy => 1#5 | .setAddr => 2#5 | .setDir => 3#5 | .setNbH => 4#5 | .setAe => 5#5
        | .setRl => 6#5 | .start => 7#5 | .hNack => 8#5 | .hTx => 9#5 | .hPush => 10#5 | .rpTcr => 11#5
        | .pSetNb => 12#5 | .pClrRl => 13#5 | .pNack => 14#5 | .pTx => 15#5 | .pPush => 16#5 | .rjClrN => 17#5
        | .rjClrRl => 18#5 | .doneC => 19#5 | .doneR => 20#5) ∧
    (statusWord e).extractLsb' 13 19 = 0#19

/-- R22 to R30, R87: a read of each register of the block, at its offset; the value is returned in the model's `rdata`
(notes/assumptions/16.md) and nothing else changes. R21, R61: a load of the word at ENGINE_BASE + offset is the read at that
offset. -/
def Obligations.HostReadsTheRegisters : Prop :=
  ∀ (p : Params) (s : State),
    hostStep p (.rd 0x00 .word) s = .next { s with rdata := s.host.addr.setWidth 64 } ∧
    hostStep p (.rd 0x04 .word) s = .next { s with rdata := s.host.hdrPtr.setWidth 64 } ∧
    hostStep p (.rd 0x08 .word) s = .next { s with rdata := s.host.hdrLen.setWidth 64 } ∧
    hostStep p (.rd 0x0C .word) s = .next { s with rdata := s.host.payPtr.setWidth 64 } ∧
    hostStep p (.rd 0x10 .word) s = .next { s with rdata := s.host.payLen.setWidth 64 } ∧
    hostStep p (.rd 0x14 .word) s = .next { s with rdata := 0#64 } ∧
    hostStep p (.rd 0x18 .word) s = .next { s with rdata := (statusWord s.eng).setWidth 64 } ∧
    hostStep p (.rd 0x1C .word) s = .next { s with rdata := s.eng.pushed.setWidth 64 } ∧
    ∀ off < 0x20, off % 4 = 0 →
      hostStep p (.load (p.engineBase + BitVec.ofNat 32 off) .word) s = hostStep p (.rd off .word) s

/-- R31: a write of a request register takes effect in that register at once and touches nothing else; a GO while ACTIVE = 1 and
a write of a read-only register have no effect; a running request does not see the request registers: ENGINE and BUS do the same
whatever they hold, and carry them along. R21, R61: a store of a word at ENGINE_BASE + offset is the write at that offset. -/
def Obligations.HostWritesTakeEffectAtOnce : Prop :=
  ∀ (p : Params) (s : State),
    (∀ v : Word,
      hostStep p (.wr 0x00 .word (v.setWidth 64)) s = .next { s with host := { s.host with addr := v.setWidth 7 } } ∧
      hostStep p (.wr 0x04 .word (v.setWidth 64)) s = .next { s with host := { s.host with hdrPtr := v } } ∧
      hostStep p (.wr 0x08 .word (v.setWidth 64)) s = .next { s with host := { s.host with hdrLen := v } } ∧
      hostStep p (.wr 0x0C .word (v.setWidth 64)) s = .next { s with host := { s.host with payPtr := v } } ∧
      hostStep p (.wr 0x10 .word (v.setWidth 64)) s = .next { s with host := { s.host with payLen := v } } ∧
      ((readReg s .status).getLsbD 7 = true → hostStep p (.wr 0x14 .word (v.setWidth 64)) s = .next s) ∧
      hostStep p (.wr 0x18 .word (v.setWidth 64)) s = .next s ∧
      hostStep p (.wr 0x1C .word (v.setWidth 64)) s = .next s) ∧
    (∀ off < 0x20, off % 4 = 0 → ∀ v : BitVec 64,
      hostStep p (.store (p.engineBase + BitVec.ofNat 32 off) .word v) s = hostStep p (.wr off .word v) s) ∧
    ∀ (h : HostRegs) (d : Nat) (a : Ack),
      engineStep p d (s.withHost h) = mapNext (·.withHost h) (engineStep p d s) ∧
      busStep p a (s.withHost h) = mapNext (·.withHost h) (busStep p a s)

/-- R65: an access to a register of ENGINE or of CTRL that is sub-word, wider or misaligned is refused: HOST's by offset, HOST's by
address, and a driver's. R21: so is an aligned one of HOST at offset 0x20 or above. That an aligned access of a driver is refused
where R37 to R40 name no register is the model's choice (notes/assumptions/17.md), and so are the driver's accesses themselves
(notes/assumptions/3.md) and that the premise on HOST's accesses by address counts the 0x2C bytes from CTRL_BASE as CTRL's block
(notes/assumptions/11.md); those that touch that block are `HostNeverTouchesTheController`. -/
def Obligations.BadRegisterAccessIsRefused : Prop :=
  ∀ (p : Params) (s : State) (width : Width) (v : BitVec 64),
    (∀ off : Nat,
      (width ≠ .word ∨ off % 4 ≠ 0 →
        hostStep p (.wr off width v) s = .refused (.badRegisterAccess off width) ∧
        hostStep p (.rd off width) s = .refused (.badRegisterAccess off width)) ∧
      (width = .word → off % 4 = 0 → 0x20 ≤ off →
        hostStep p (.wr off width v) s = .refused (.noSuchRegister off) ∧
        hostStep p (.rd off width) s = .refused (.noSuchRegister off))) ∧
    ∀ a : Addr,
      (touchesEngine p a (bytesOf width) → ¬ touchesCtrl p a (bytesOf width) → width ≠ .word ∨ a.toNat % 4 ≠ 0 →
        hostStep p (.store a width v) s = .refused (.badRegisterAccess (a - p.engineBase).toNat width) ∧
        hostStep p (.load a width) s = .refused (.badRegisterAccess (a - p.engineBase).toNat width)) ∧
      (width ≠ .word ∨ a.toNat % 4 ≠ 0 →
        ctrlAccess p (.wr a width v) s = .refused (.badRegisterAccess (a - p.ctrlBase).toNat width) ∧
        ctrlAccess p (.rd a width) s = .refused (.badRegisterAccess (a - p.ctrlBase).toNat width)) ∧
      (width = .word → a.toNat % 4 = 0 → a ≠ p.ctrlBase + 0x04#32 → a ≠ p.ctrlBase + 0x18#32 →
        a ≠ p.ctrlBase + 0x1C#32 → a ≠ p.ctrlBase + 0x28#32 →
        ctrlAccess p (.wr a width v) s = .refused (.noSuchRegister (a - p.ctrlBase).toNat) ∧
        ctrlAccess p (.rd a width) s = .refused (.noSuchRegister (a - p.ctrlBase).toNat))

/-- R61, R64, R73: a HOST store to HOSTMEM writes its bytes from the address up modulo 2^32, least significant first, and leaves
every other byte, and every register, alone; a HOST load returns the bytes from the address up in the same order, zero-extended
in the model's `rdata`, and changes nothing else. That HOST stores and loads 1, 2, 4 or 8 bytes at any alignment in one step is
the model's choice (notes/assumptions/16.md), and so is that the premise counts the 0x2C bytes from CTRL_BASE as CTRL's block
(notes/assumptions/11.md). -/
def Obligations.HostStoreWritesItsBytes : Prop :=
  ∀ (p : Params) (s : State) (a : Addr) (width : Width) (v : BitVec 64),
    overlapsRegisters p a (bytesOf width) = false →
    (∃ t, hostStep p (.store a width v) s = .next t ∧
      (∀ i < bytesOf width, t.byteAt p (a + BitVec.ofNat 32 i) = (v >>> (8 * i)).setWidth 8) ∧
      (∀ k : Addr, (∀ i < bytesOf width, k ≠ a + BitVec.ofNat 32 i) → t.mem.read k.toNat = s.mem.read k.toNat) ∧
      t.host = s.host ∧ t.eng = s.eng ∧ t.ctl = s.ctl ∧ t.wire = s.wire ∧ t.fault = s.fault ∧ t.resp = s.resp ∧
      t.trace = s.trace ∧ t.rdata = s.rdata ∧ t.script = s.script ∧ t.tick = s.tick) ∧
    ∃ w : BitVec 64, hostStep p (.load a width) s = .next { s with rdata := w } ∧
      (∀ i < bytesOf width, (w >>> (8 * i)).setWidth 8 = s.byteAt p (a + BitVec.ofNat 32 i)) ∧
      w.toNat < 2 ^ (8 * bytesOf width)

/-- R122, R246: HOST never changes CTRL or the wire, and never raises a fault; an access of HOST by address that touches CTRL's
block (of 0x2C bytes, notes/assumptions/11.md) is refused. -/
def Obligations.HostNeverTouchesTheController : Prop :=
  ∀ (p : Params) (s : State),
    (∀ (h : HostMove) (t : State), hostStep p h s = .next t →
      t.ctl = s.ctl ∧ t.wire = s.wire ∧ t.fault = s.fault ∧ t.resp = s.resp) ∧
    ∀ (a : Addr) (width : Width) (v : BitVec 64), touchesCtrl p a (bytesOf width) →
      hostStep p (.store a width v) s = .refused (.hostTouchesCtrl a) ∧
      hostStep p (.load a width) s = .refused (.hostTouchesCtrl a)

/-! ### The controller's concrete registers -/

/-- From R37 to R40: the offset and the bits of each register of CTRL's block. CR2 reads the controller's fields; ISR reads the
four flags and any value in its other bits, and no write of it changes a state; ICR takes CLRNACK at bit 4 and reads 0; TXDR takes
PUSH, and no op's response depends on it. That a whole word written to CR2 as it reads, with START = 1, is START alone, a second
START in ADDR among it, is the model's choice (notes/assumptions/28.md; G10 leaves that hazard out), and so are that a read returns
its word in `rdata` (notes/assumptions/16.md) and that a write of ISR is ignored (notes/assumptions/27.md). -/
def Obligations.ControllerRegisterLayout : Prop :=
  ∀ (p : Params) (s : State),
    (ctrlAccess p (.rd (p.ctrlBase + 0x04#32) .word) s = .next { s with rdata := (cr2Word s.ctl).setWidth 64 } ∧
      (cr2Word s.ctl).extractLsb' 1 7 = s.ctl.sadd7 ∧
      (∀ a t, s.ctl.phase = .free → exec (.setaddr a) s = .next t →
        (cr2Word t.ctl).extractLsb' 0 10 = 0#2 ++ a ++ 0#1) ∧
      (cr2Word s.ctl).getLsbD 10 = s.ctl.rdWrn ∧ (cr2Word s.ctl).extractLsb' 11 2 = 0#2 ∧
      ((cr2Word s.ctl).getLsbD 13 = true ↔ s.ctl.phase = .addr) ∧ (cr2Word s.ctl).extractLsb' 14 2 = 0#2 ∧
      (cr2Word s.ctl).extractLsb' 16 8 = s.ctl.nbytes ∧ (cr2Word s.ctl).getLsbD 24 = s.ctl.reload ∧
      (cr2Word s.ctl).getLsbD 25 = s.ctl.autoend ∧ (cr2Word s.ctl).extractLsb' 26 6 = 0#6 ∧
      (s.fault = [] →
        ctrlAccess p (.wr (p.ctrlBase + 0x04#32) .word ((cr2Word s.ctl ||| 0x00002000#32).setWidth 64)) s =
          exec .start s) ∧
      cr2Word State.reset.ctl = 0x00000000#32) ∧
    ((∃ f, ctrlAccess p (.rd (p.ctrlBase + 0x18#32) .word) s =
        .next { s with rdata := (isrWord f s.ctl).setWidth 64, tick := s.tick + 1 }) ∧
      (∀ v t, ctrlAccess p (.wr (p.ctrlBase + 0x18#32) .word v) s = .next t → t = s) ∧
      ∀ f : Word,
        (isrWord f s.ctl).getLsbD 1 = s.ctl.txis ∧ (isrWord f s.ctl).getLsbD 4 = s.ctl.nackf ∧
        (isrWord f s.ctl).getLsbD 7 = s.ctl.tcr ∧ (isrWord f s.ctl).getLsbD 15 = s.ctl.busy ∧
        (∀ i, i ≠ 1 → i ≠ 4 → i ≠ 7 → i ≠ 15 → (isrWord f s.ctl).getLsbD i = f.getLsbD i) ∧
        isrWord f State.reset.ctl &&& 0x00008092#32 = 0#32) ∧
    (ctrlAccess p (.rd (p.ctrlBase + 0x1C#32) .word) s = .next { s with rdata := 0#64 } ∧
      ctrlAccess p (.wr (p.ctrlBase + 0x1C#32) .word 0x00000010#64) s = exec .clrnack s ∧
      ctrlAccess p (.wr (p.ctrlBase + 0x1C#32) .word 0#64) s = .next s ∧
      ∀ v : Word, v &&& 0xFFFFFFEF#32 ≠ 0#32 →
        ctrlAccess p (.wr (p.ctrlBase + 0x1C#32) .word (v.setWidth 64)) s = .refused (.icrUnmodelledBit v)) ∧
    ((∀ b : Byte, ctrlAccess p (.wr (p.ctrlBase + 0x28#32) .word (b.setWidth 64)) s = exec (.push b) s) ∧
      State.reset.ctl.txdr = 0#8 ∧
      ∀ (i : Instr) (b : Byte) (t : State), i.isOp = true → exec i s = .next t →
        ∃ u, exec i { s with ctl := { s.ctl with txdr := b } } = .next u ∧ u.resp = t.resp)

/-- R89: the register access of each op does what the op does; a configuring op's access changes its own field of CR2 and no
other bit; a poll's response is its bit of ISR, whatever the bits the block does not have. -/
def Obligations.OpsAreRegisterAccesses : Prop :=
  ∀ (p : Params) (s : State),
    ((∀ a : Target, ctrlAccess p (.update (.sadd (0#2 ++ a ++ 0#1))) s = exec (.setaddr a) s) ∧
      (∀ d, ctrlAccess p (.update (.rdWrn d)) s = exec (.setdir d) s) ∧
      (∀ n, ctrlAccess p (.update (.nbytes n)) s = exec (.setnbytes n) s) ∧
      (∀ e, ctrlAccess p (.update (.autoend e)) s = exec (.setautoend e) s) ∧
      (∀ r, ctrlAccess p (.update (.reload r)) s = exec (.setreload r) s) ∧
      ctrlAccess p (.update .start) s = exec .start s ∧
      ctrlAccess p (.wr (p.ctrlBase + 0x1C#32) .word 0x00000010#64) s = exec .clrnack s ∧
      ∀ b : Byte, ctrlAccess p (.wr (p.ctrlBase + 0x28#32) .word (b.setWidth 64)) s = exec (.push b) s) ∧
    (s.ctl.phase = .free →
      (∀ a t, exec (.setaddr a) s = .next t →
        (cr2Word t.ctl).extractLsb' 0 10 = 0#2 ++ a ++ 0#1 ∧
        cr2Word t.ctl &&& 0xFFFFFC00#32 = cr2Word s.ctl &&& 0xFFFFFC00#32) ∧
      (∀ d t, exec (.setdir d) s = .next t →
        (cr2Word t.ctl).getLsbD 10 = d ∧ cr2Word t.ctl &&& 0xFFFFFBFF#32 = cr2Word s.ctl &&& 0xFFFFFBFF#32) ∧
      (∀ n t, exec (.setnbytes n) s = .next t →
        (cr2Word t.ctl).extractLsb' 16 8 = n ∧ cr2Word t.ctl &&& 0xFF00FFFF#32 = cr2Word s.ctl &&& 0xFF00FFFF#32) ∧
      (∀ r t, exec (.setreload r) s = .next t →
        (cr2Word t.ctl).getLsbD 24 = r ∧ cr2Word t.ctl &&& 0xFEFFFFFF#32 = cr2Word s.ctl &&& 0xFEFFFFFF#32) ∧
      ∀ e t, exec (.setautoend e) s = .next t →
        (cr2Word t.ctl).getLsbD 25 = e ∧ cr2Word t.ctl &&& 0xFDFFFFFF#32 = cr2Word s.ctl &&& 0xFDFFFFFF#32) ∧
    ∀ f : Word,
      exec .polltxis s = .next { s with resp := some ((isrWord f s.ctl).getLsbD 1) } ∧
      exec .pollnack s = .next { s with resp := some ((isrWord f s.ctl).getLsbD 4) } ∧
      exec .polltcr s = .next { s with resp := some ((isrWord f s.ctl).getLsbD 7) } ∧
      exec .pollbusy s = .next { s with resp := some ((isrWord f s.ctl).getLsbD 15) }

/-! ### Invariants and rules of the whole machine -/

/-- The invariants below hold at reset. -/
def Obligations.InvariantsHoldAtReset : Prop :=
  State.reset.Sound ∧ State.reset.wireFramed ∧ State.reset.mem.wf ∧ State.reset.pushesCounted ∧
    State.reset.clearedOnce ∧ ∀ p, State.reset.bytesInOrder p

/-- R41, R121: every step keeps the invariants of C.PH, whoever moves; TXIS and TCR are then never both 1. -/
def Obligations.ControllerStaysConsistent : Prop :=
  ∀ s t : State, s.ctl.Consistent → step s = .next t →
    t.ctl.Consistent ∧ ¬ (t.ctl.txis = true ∧ t.ctl.tcr = true)

/-- R42, R122: every step keeps the wire log a sequence of frames of which at most the last is open, as the phase says. -/
def Obligations.WireStaysFramed : Prop :=
  ∀ s t : State, s.ctl.Consistent → s.wireFramed → step s = .next t → t.wireFramed

/-- R34, R197, R215: when only the block's own agents move, every step keeps ENGINE's invariants and the link with the
controller, and raises no fault; reload is clear whenever no request is active. -/
def Obligations.BlockStaysSound : Prop :=
  ∀ s t : State, s.Sound → step s = .next t →
    t.Sound ∧ ((readReg t .status).getLsbD 7 = false → t.ctl.reload = false)

/-- HOSTMEM keeps its canonical form (the model's own, notes/assumptions/8.md). -/
def Obligations.MemoryStaysCanonical : Prop :=
  ∀ s t : State, s.mem.wf → step s = .next t → t.mem.wf

/-- R30: E.PUSHED stays the number of PUSH ops of the request modulo 2^32. -/
def Obligations.PushedStaysTheNumberOfPushes : Prop :=
  ∀ s t : State, s.Sound → s.pushesCounted → step s = .next t → t.pushesCounted

/-- R62, R63, R195: while a request is sent, the bytes pushed stay the header's and then the payload's bytes in ascending order;
a request that completes has pushed all of them. -/
def Obligations.BytesAreSentInOrder : Prop :=
  ∀ (p : Params) (s t : State), s.Sound → s.bytesInOrder p → advance p s = .next t →
    t.bytesInOrder p ∧
    (s.eng.ms.active = true → t.eng.ms = .doneC → t.stale = [] →
      pushesOf t.trace = bufferBytes p t t.eng.lHp t.eng.lHl.toNat ++ bufferBytes p t t.eng.lPp t.eng.lPl.toNat)

/-- R164, R196: the rejection flag is cleared exactly once in a rejected request and never in another. -/
def Obligations.RejectionFlagIsClearedOnce : Prop :=
  ∀ s t : State, s.Sound → s.clearedOnce → step s = .next t → t.clearedOnce

/-- R121 (b), R36: only a device's NACK sets the rejection flag. -/
def Obligations.OnlyADeviceNackSetsTheRejectionFlag : Prop :=
  ∀ (p : Params) (s t : State), advance p s = .next t → s.ctl.nackf = false → t.ctl.nackf = true →
    nextMove p s = .block (.bus .nack) ∧ (s.ctl.phase = .addr ∨ s.ctl.phase = .data)

/-- R123: after a NACK the controller raises neither TXIS nor TCR in that frame. -/
def Obligations.NoReadyFlagAfterANack : Prop :=
  ∀ (p : Params) (s t : State), s.ctl.Consistent → s.ctl.phase = .nackHold → advance p s = .next t →
    (t.ctl.phase = .nackHold ∨ t.ctl.phase = .free) ∧ t.ctl.txis = false ∧ t.ctl.tcr = false

/-- R217 (HG1), R245: once the device has refused a byte before a reload wait, ENGINE polls TCR until RESET: no other move
changes ENGINE's registers, RELOAD or NACKF. -/
def Obligations.RejectionAtAReloadWaitHangs : Prop :=
  ∀ (p : Params) (s t : State), s.Hung → advance p s = .next t → nextMove p s ≠ .block .reset →
    t.Hung ∧ t.eng = s.eng ∧ t.ctl.reload = s.ctl.reload ∧ t.ctl.nackf = s.ctl.nackf ∧
      ((statusWord t.eng).extractLsb' 4 3 = 2#3 ∧ (statusWord t.eng).extractLsb' 8 5 = 11#5)

/-- R117, R119, R217 (HG3): a bus held by a refused byte, or by an empty final segment that stalls, stays busy until RESET. -/
def Obligations.HeldBusStaysBusyUntilReset : Prop :=
  ∀ (p : Params) (s t : State), s.ctl.Consistent →
    (s.ctl.phase = .nackHold ∧ p.nackReleasesBus = false) ∨ (s.ctl.phase = .segEmpty ∧ p.emptyFinalSegment = .stall) →
    advance p s = .next t → nextMove p s ≠ .block .reset →
    t.ctl.phase = s.ctl.phase ∧ t.ctl.busy = true ∧ t.wire = s.wire

/-- R118, R120: in a run that is weakly fair to BUS, an auto-stop that is due is sent, P on the wire and the bus free, unless a
RESET is taken first. -/
def Obligations.AutoStopComesInFairRuns : Prop :=
  ∀ (p : Params) (r : Nat → State) (n : Nat), IsRun p r → WeaklyFair p r → (r n).ctl.Consistent →
    (r n).ctl.phase = .stopping →
    ∃ m, n ≤ m ∧ (r m).ctl.phase = .stopping ∧
      (nextMove p (r m) = .block .reset ∨
        ((nextMove p (r m)).isBus = true ∧ (r (m + 1)).wire = (r m).wire ++ [.stop] ∧
          (r (m + 1)).ctl.phase = .free ∧ (r (m + 1)).ctl.busy = false))

/-- R194, R195, R198: under the eager schedule with every answer ACK, a request with readable buffers completes after exactly
`opCount` ops; its trace has the segment lengths of R194, one SETRELOAD 0, and the buffers' bytes in order, and so has the wire
once BUS has settled. -/
def Obligations.RequestCompletesUnderTheEagerSchedule : Prop :=
  ∀ (p : Params) (s g : State), s.fault = [] → s.eng.ms.active = false → s.ctl.Consistent → s.ctl.phase = .free →
    s.ctl.nackf = false → s.host.hdrLen.toNat ≤ 255 → readable p s.host.hdrPtr s.host.hdrLen.toNat →
    readable p s.host.payPtr s.host.payLen.toNat → exec .go s = .next g →
    ∃ t, eagerRun p (opCount s.host.hdrLen.toNat s.host.payLen.toNat) g = .next t ∧
      t.eng.ms = .doneC ∧ t.eng.out = true ∧ t.fault = [] ∧ t.ctl.reload = false ∧
      t.eng.pushed = s.host.hdrLen + s.host.payLen ∧
      t.trace.length = opCount s.host.hdrLen.toNat s.host.payLen.toNat ∧
      lengthsOf t.trace = s.host.hdrLen.setWidth 8 :: segmentLengths s.host.payLen.toNat ∧
      countOf (.setreload false) t.trace = 1 ∧
      pushesOf t.trace =
        bufferBytes p s s.host.hdrPtr s.host.hdrLen.toNat ++ bufferBytes p s s.host.payPtr s.host.payLen.toNat ∧
      ∃ u, settle p 3 t = .next u ∧
        u.wire = s.wire ++ [.start, .addr s.host.addr false .ack] ++ (pushesOf t.trace).map (.data · .ack) ++
          (if s.host.payLen ≠ 0#32 ∨ p.emptyFinalSegment = .stop then [.stop] else [])
end

