-- ==== Sys2Proof/Laws/Arith.lean ====
section
/-! SUPPORT. The segment length as a number (spec/42_segment_reload.md R187), and the byte and word facts its uses need. -/

namespace Sys2Proof.Machine

/-- The next segment's length is min(REM, 255). -/
theorem segmentLen_toNat (rem : Word) : (segmentLen rem).toNat = min rem.toNat 255 := by
  unfold segmentLen
  split_ifs with h
  · have : rem.toNat ≤ 255 := by simpa [BitVec.le_def] using h
    simp; omega
  · have : ¬ rem.toNat ≤ 255 := by simpa [BitVec.le_def] using h
    simp; omega

/-- A byte widened to a word is the same number. -/
theorem toNat_setWidth_word (b : Byte) : (b.setWidth 32).toNat = b.toNat := by simp; omega

/-- A nonzero byte is at least 1. -/
theorem byte_pos {b : Byte} (h : b ≠ 0#8) : 1 ≤ b.toNat :=
  Nat.pos_of_ne_zero fun e => h (BitVec.eq_of_toNat_eq (by simpa using e))

/-- The segment is final iff it takes all of REM. -/
theorem isFinal_iff (rem : Word) : isFinal rem = true ↔ rem.toNat ≤ 255 := by
  simp only [isFinal, beq_iff_eq, ← BitVec.toNat_inj, toNat_setWidth_word, segmentLen_toNat]
  omega

/-- The final segment is the one whose length is REM. -/
theorem isFinal_iff_eq (rem : Word) : isFinal rem = true ↔ (segmentLen rem).setWidth 32 = rem := by
  simp only [isFinal, beq_iff_eq]
  exact eq_comm

/-- Only an empty rest gives an empty segment. -/
theorem segmentLen_eq_zero_iff (rem : Word) : segmentLen rem = 0#8 ↔ rem = 0#32 := by
  simp only [← BitVec.toNat_inj, segmentLen_toNat]
  simp

end Sys2Proof.Machine
end

