-- ==== Sys2Proof/Laws/Memory.lean ====
section
/-! SUPPORT. HOSTMEM: read after write, every operation keeps the canonical form, and what a load returns (spec/20_memory.md R64,
R69). -/

namespace Sys2Proof.Machine

/-- A read after a write of the same byte gives the value written. -/
@[simp] theorem Memory.read_write_self (m : Memory) (a : Nat) (b : Byte) : (m.write a b).read a = some b := by
  induction m with
  | nil => simp [Memory.write, Memory.read]
  | cons c m ih =>
    obtain ⟨k, v⟩ := c
    unfold Memory.write
    split_ifs with h1 h2
    · simp [Memory.read]
    · simp [Memory.read]
    · simp [Memory.read, h2, ih]

/-- A write leaves every other byte alone. -/
theorem Memory.read_write_other (m : Memory) {a k : Nat} (b : Byte) (h : k ≠ a) : (m.write a b).read k = m.read k := by
  induction m with
  | nil => simp [Memory.write, Memory.read, h]
  | cons c m ih =>
    obtain ⟨j, v⟩ := c
    unfold Memory.write
    split_ifs with h1 h2
    · simp [Memory.read, h]
    · subst h2; simp [Memory.read, h]
    · simp [Memory.read, ih]

/-- The addresses after a write: those before it, and the one written. -/
theorem Memory.mem_write {m : Memory} {a : Nat} {b : Byte} {c : Host.Cell} (h : c ∈ m.write a b) :
    c = (a, b) ∨ c ∈ m := by
  induction m with
  | nil => simpa [Memory.write] using h
  | cons x m ih =>
    obtain ⟨k, v⟩ := x
    unfold Memory.write at h
    split_ifs at h with h1 h2
    · simpa using h
    · simp only [List.mem_cons] at h ⊢; tauto
    · simp only [List.mem_cons] at h ⊢
      rcases h with h | h
      · exact .inr (.inl h)
      · rcases ih h with h | h
        · exact .inl h
        · exact .inr (.inr h)

/-- A write keeps the canonical form. -/
theorem Memory.wf_write {m : Memory} {a : Nat} {b : Byte} (hm : m.wf) (ha : a < 2 ^ 32) : (m.write a b).wf := by
  refine ⟨?_, fun c hc => ?_⟩
  · obtain ⟨hs, -⟩ := hm
    induction m with
    | nil => simp [Memory.write]
    | cons x m ih =>
      obtain ⟨k, v⟩ := x
      have hk := List.pairwise_cons.1 hs
      unfold Memory.write
      split_ifs with h1 h2
      · refine List.pairwise_cons.2 ⟨fun c hc => ?_, hs⟩
        rcases List.mem_cons.1 hc with rfl | hc
        · exact h1
        · exact h1.trans (hk.1 c hc)
      · subst h2; exact List.pairwise_cons.2 ⟨hk.1, hk.2⟩
      · refine List.pairwise_cons.2 ⟨fun c hc => ?_, ih hk.2⟩
        rcases Memory.mem_write hc with rfl | hc
        · show k < a; omega
        · exact hk.1 c hc
  · rcases Memory.mem_write hc with rfl | hc
    · exact ha
    · exact hm.2 c hc

/-- A HOST store keeps the canonical form. -/
theorem storeByte_wf {p : Params} {a : Addr} {b : Byte} {s : State} (h : s.mem.wf) : (storeByte p a b s).mem.wf :=
  Memory.wf_write h a.isLt

/-- A HOST store of any width keeps the canonical form. -/
theorem storeBytes_wf {p : Params} {n : Nat} {a : Addr} {v : BitVec 64} {s : State} (h : s.mem.wf) :
    (storeBytes p n a v s).mem.wf := by
  induction n generalizing a v s with
  | zero => exact h
  | succ n ih => exact ih (storeByte_wf h)

/-- The byte a HOST store writes. -/
@[simp] theorem storeByte_byteAt_self (p : Params) (a : Addr) (b : Byte) (s : State) :
    (storeByte p a b s).byteAt p a = b := by
  simp [State.byteAt, storeByte]

/-- A HOST store of a byte leaves every other byte alone. -/
theorem storeByte_byteAt_other {p : Params} {a k : Addr} {b : Byte} {s : State} (h : k ≠ a) :
    (storeByte p a b s).byteAt p k = s.byteAt p k := by
  have : k.toNat ≠ a.toNat := fun e => h (BitVec.eq_of_toNat_eq e)
  simp [State.byteAt, storeByte, Memory.read_write_other _ _ this]

/-- The byte of HOSTMEM depends on the memory alone. -/
theorem byteAt_congr {p : Params} {s t : State} (h : t.mem = s.mem) (a : Addr) : t.byteAt p a = s.byteAt p a := by
  simp [State.byteAt, h]

/-- A store of several bytes touches HOSTMEM and the record of overwritten buffer bytes, nothing else. -/
theorem storeBytes_frame (p : Params) (n : Nat) (a : Addr) (v : BitVec 64) (s : State) :
    ∃ m st, storeBytes p n a v s = { s with mem := m, stale := st } := by
  induction n generalizing a v s with
  | zero => exact ⟨s.mem, s.stale, rfl⟩
  | succ n ih =>
    obtain ⟨m, st, h⟩ := ih (a + 1#32) (v >>> 8) (storeByte p a (v.setWidth 8) s)
    exact ⟨m, st, h⟩

/-- A load of `n` bytes has no bit above them. -/
theorem loadBytes_high (p : Params) (n : Nat) (a : Addr) (s : State) {j : Nat} (h : 8 * n ≤ j) :
    (loadBytes p n a s).getLsbD j = false := by
  induction n generalizing a j with
  | zero => simp [loadBytes]
  | succ n ih =>
    simp only [loadBytes, BitVec.getLsbD_or, BitVec.getLsbD_shiftLeft, BitVec.getLsbD_setWidth]
    rw [ih (a + 1#32) (show 8 * n ≤ j - 8 by omega), BitVec.getLsbD_of_ge _ _ (by omega)]
    simp

/-- A load of up to eight bytes returns each byte of HOSTMEM at its place (R64). -/
theorem loadBytes_byte (p : Params) {n i : Nat} (hn : n ≤ 8) (hi : i < n) (a : Addr) (s : State) :
    (loadBytes p n a s >>> (8 * i)).setWidth 8 = s.byteAt p (a + BitVec.ofNat 32 i) := by
  induction n generalizing a i with
  | zero => omega
  | succ n ih =>
    cases i with
    | zero =>
      ext k hk
      simp [loadBytes]
    | succ i =>
      have hb := ih (by omega) (Nat.lt_of_succ_lt_succ hi) (a + 1#32)
      rw [BitVec.add_assoc, show 1#32 + BitVec.ofNat 32 i = BitVec.ofNat 32 (i + 1) by
        rw [Nat.add_comm, BitVec.ofNat_add]] at hb
      rw [← hb]
      ext k hk
      have h1 : 8 * (i + 1) + k < 64 := by omega
      have h2 : ¬ 8 * (i + 1) + k < 8 := by omega
      have h3 : 8 * (i + 1) + k - 8 = 8 * i + k := by omega
      have h4 : 8 ≤ 8 * (i + 1) + k := by omega
      simp [loadBytes, h1, h2, h3, h4, ← BitVec.getLsbD_eq_getElem]
end Sys2Proof.Machine
end

