-- ==== Sys2Proof/Laws/Encoding.lean ====
section
/-! SUPPORT. What decoding and encoding do, once each (spec/30_encoding.md R84, R90). -/

namespace Sys2Proof

/-- A row gives its instruction exactly on the words it accepts (R90 step 4). -/
theorem decodeRow_eq_instr {w mask value : OpWord} {i j : Instr} :
    decodeRow w mask value i = .instr j ↔ w &&& mask = value ∧ i = j := by
  unfold decodeRow
  split_ifs with h <;> simp [h]

/-- The operand of a SETADDR word comes back. -/
theorem decodeOp_setaddr : ∀ a : Target, decodeOp (encodeOp (.setaddr a)) = .instr (.setaddr a) := by decide +kernel

/-- The operand of a SETNBYTES word comes back. -/
theorem decodeOp_setnbytes : ∀ n : Byte, decodeOp (encodeOp (.setnbytes n)) = .instr (.setnbytes n) := by decide +kernel

/-- The operand of a PUSH word comes back. -/
theorem decodeOp_push : ∀ b : Byte, decodeOp (encodeOp (.push b)) = .instr (.push b) := by decide +kernel

/-- The operand of a SETDIR word comes back. -/
theorem decodeOp_setdir (d : Bool) : decodeOp (encodeOp (.setdir d)) = .instr (.setdir d) := by revert d; decide

/-- The operand of a SETAUTOEND word comes back. -/
theorem decodeOp_setautoend (e : Bool) : decodeOp (encodeOp (.setautoend e)) = .instr (.setautoend e) := by
  revert e; decide

/-- The operand of a SETRELOAD word comes back. -/
theorem decodeOp_setreload (r : Bool) : decodeOp (encodeOp (.setreload r)) = .instr (.setreload r) := by
  revert r; decide

end Sys2Proof
end

