-- ==== Sys2Proof/Laws/PerInstr.lean ====
section
/-! SUPPORT. Statements made per instruction: the round trip through the encoding of its interface (spec/30_encoding.md R84,
R86, R90). -/

namespace Sys2Proof.Laws.RoundTrip

/-- Decoding the instruction's encoding gives it back. -/
def Statement (i : Instr) : Prop := decode (encode i) = .instr i

theorem setaddr (a : Target) : Statement (.setaddr a) := decodeOp_setaddr a
theorem setdir (d : Bool) : Statement (.setdir d) := decodeOp_setdir d
theorem setnbytes (n : Byte) : Statement (.setnbytes n) := decodeOp_setnbytes n
theorem setautoend (e : Bool) : Statement (.setautoend e) := decodeOp_setautoend e
theorem setreload (r : Bool) : Statement (.setreload r) := decodeOp_setreload r
theorem start : Statement .start := rfl
theorem polltxis : Statement .polltxis := rfl
theorem polltcr : Statement .polltcr := rfl
theorem pollnack : Statement .pollnack := rfl
theorem clrnack : Statement .clrnack := rfl
theorem pollbusy : Statement .pollbusy := rfl
theorem push (b : Byte) : Statement (.push b) := decodeOp_push b
theorem go : Statement .go := rfl

end Sys2Proof.Laws.RoundTrip
end

