-- ==== Sys2Proof/Laws/State.lean ====
section
/-! SUPPORT. One lemma per field per update of State, Engine and Ctrl: no later proof unfolds a record update. -/

namespace Sys2Proof.Machine

/-! ### State.raise -/

@[simp] theorem State.raise_host (s : State) (r : FaultReason) : (s.raise r).host = s.host := rfl
@[simp] theorem State.raise_eng (s : State) (r : FaultReason) : (s.raise r).eng = s.eng := rfl
@[simp] theorem State.raise_ctl (s : State) (r : FaultReason) : (s.raise r).ctl = s.ctl := rfl
@[simp] theorem State.raise_wire (s : State) (r : FaultReason) : (s.raise r).wire = s.wire := rfl
@[simp] theorem State.raise_fault (s : State) (r : FaultReason) : (s.raise r).fault = if r ∈ s.fault then s.fault else s.fault ++ [r] := rfl
@[simp] theorem State.raise_mem (s : State) (r : FaultReason) : (s.raise r).mem = s.mem := rfl
@[simp] theorem State.raise_resp (s : State) (r : FaultReason) : (s.raise r).resp = s.resp := rfl
@[simp] theorem State.raise_trace (s : State) (r : FaultReason) : (s.raise r).trace = s.trace := rfl
@[simp] theorem State.raise_rdata (s : State) (r : FaultReason) : (s.raise r).rdata = s.rdata := rfl
@[simp] theorem State.raise_stale (s : State) (r : FaultReason) : (s.raise r).stale = s.stale := rfl
@[simp] theorem State.raise_script (s : State) (r : FaultReason) : (s.raise r).script = s.script := rfl
@[simp] theorem State.raise_tick (s : State) (r : FaultReason) : (s.raise r).tick = s.tick := rfl

/-! ### State.answer -/

@[simp] theorem State.answer_host (s : State) (o : Option Bool) (c : Ctrl) : (s.answer o c).host = s.host := rfl
@[simp] theorem State.answer_eng (s : State) (o : Option Bool) (c : Ctrl) : (s.answer o c).eng = s.eng := rfl
@[simp] theorem State.answer_ctl (s : State) (o : Option Bool) (c : Ctrl) : (s.answer o c).ctl = c := rfl
@[simp] theorem State.answer_wire (s : State) (o : Option Bool) (c : Ctrl) : (s.answer o c).wire = s.wire := rfl
@[simp] theorem State.answer_fault (s : State) (o : Option Bool) (c : Ctrl) : (s.answer o c).fault = s.fault := rfl
@[simp] theorem State.answer_mem (s : State) (o : Option Bool) (c : Ctrl) : (s.answer o c).mem = s.mem := rfl
@[simp] theorem State.answer_resp (s : State) (o : Option Bool) (c : Ctrl) : (s.answer o c).resp = o := rfl
@[simp] theorem State.answer_trace (s : State) (o : Option Bool) (c : Ctrl) : (s.answer o c).trace = s.trace := rfl
@[simp] theorem State.answer_rdata (s : State) (o : Option Bool) (c : Ctrl) : (s.answer o c).rdata = s.rdata := rfl
@[simp] theorem State.answer_stale (s : State) (o : Option Bool) (c : Ctrl) : (s.answer o c).stale = s.stale := rfl
@[simp] theorem State.answer_script (s : State) (o : Option Bool) (c : Ctrl) : (s.answer o c).script = s.script := rfl
@[simp] theorem State.answer_tick (s : State) (o : Option Bool) (c : Ctrl) : (s.answer o c).tick = s.tick := rfl

/-! ### State.log -/

@[simp] theorem State.log_host (s : State) (ev : WireEvent) : (s.log ev).host = s.host := rfl
@[simp] theorem State.log_eng (s : State) (ev : WireEvent) : (s.log ev).eng = s.eng := rfl
@[simp] theorem State.log_ctl (s : State) (ev : WireEvent) : (s.log ev).ctl = s.ctl := rfl
@[simp] theorem State.log_wire (s : State) (ev : WireEvent) : (s.log ev).wire = s.wire ++ [ev] := rfl
@[simp] theorem State.log_fault (s : State) (ev : WireEvent) : (s.log ev).fault = s.fault := rfl
@[simp] theorem State.log_mem (s : State) (ev : WireEvent) : (s.log ev).mem = s.mem := rfl
@[simp] theorem State.log_resp (s : State) (ev : WireEvent) : (s.log ev).resp = s.resp := rfl
@[simp] theorem State.log_trace (s : State) (ev : WireEvent) : (s.log ev).trace = s.trace := rfl
@[simp] theorem State.log_rdata (s : State) (ev : WireEvent) : (s.log ev).rdata = s.rdata := rfl
@[simp] theorem State.log_stale (s : State) (ev : WireEvent) : (s.log ev).stale = s.stale := rfl
@[simp] theorem State.log_script (s : State) (ev : WireEvent) : (s.log ev).script = s.script := rfl
@[simp] theorem State.log_tick (s : State) (ev : WireEvent) : (s.log ev).tick = s.tick := rfl

/-! ### State.withCtl -/

@[simp] theorem State.withCtl_host (s : State) (c : Ctrl) : (s.withCtl c).host = s.host := rfl
@[simp] theorem State.withCtl_eng (s : State) (c : Ctrl) : (s.withCtl c).eng = s.eng := rfl
@[simp] theorem State.withCtl_ctl (s : State) (c : Ctrl) : (s.withCtl c).ctl = c := rfl
@[simp] theorem State.withCtl_wire (s : State) (c : Ctrl) : (s.withCtl c).wire = s.wire := rfl
@[simp] theorem State.withCtl_fault (s : State) (c : Ctrl) : (s.withCtl c).fault = s.fault := rfl
@[simp] theorem State.withCtl_mem (s : State) (c : Ctrl) : (s.withCtl c).mem = s.mem := rfl
@[simp] theorem State.withCtl_resp (s : State) (c : Ctrl) : (s.withCtl c).resp = s.resp := rfl
@[simp] theorem State.withCtl_trace (s : State) (c : Ctrl) : (s.withCtl c).trace = s.trace := rfl
@[simp] theorem State.withCtl_rdata (s : State) (c : Ctrl) : (s.withCtl c).rdata = s.rdata := rfl
@[simp] theorem State.withCtl_stale (s : State) (c : Ctrl) : (s.withCtl c).stale = s.stale := rfl
@[simp] theorem State.withCtl_script (s : State) (c : Ctrl) : (s.withCtl c).script = s.script := rfl
@[simp] theorem State.withCtl_tick (s : State) (c : Ctrl) : (s.withCtl c).tick = s.tick := rfl

/-! ### State.withEng -/

@[simp] theorem State.withEng_host (s : State) (e : Engine) : (s.withEng e).host = s.host := rfl
@[simp] theorem State.withEng_eng (s : State) (e : Engine) : (s.withEng e).eng = e := rfl
@[simp] theorem State.withEng_ctl (s : State) (e : Engine) : (s.withEng e).ctl = s.ctl := rfl
@[simp] theorem State.withEng_wire (s : State) (e : Engine) : (s.withEng e).wire = s.wire := rfl
@[simp] theorem State.withEng_fault (s : State) (e : Engine) : (s.withEng e).fault = s.fault := rfl
@[simp] theorem State.withEng_mem (s : State) (e : Engine) : (s.withEng e).mem = s.mem := rfl
@[simp] theorem State.withEng_resp (s : State) (e : Engine) : (s.withEng e).resp = s.resp := rfl
@[simp] theorem State.withEng_trace (s : State) (e : Engine) : (s.withEng e).trace = s.trace := rfl
@[simp] theorem State.withEng_rdata (s : State) (e : Engine) : (s.withEng e).rdata = s.rdata := rfl
@[simp] theorem State.withEng_stale (s : State) (e : Engine) : (s.withEng e).stale = s.stale := rfl
@[simp] theorem State.withEng_script (s : State) (e : Engine) : (s.withEng e).script = s.script := rfl
@[simp] theorem State.withEng_tick (s : State) (e : Engine) : (s.withEng e).tick = s.tick := rfl

/-! ### State.withHost -/

@[simp] theorem State.withHost_host (s : State) (h : HostRegs) : (s.withHost h).host = h := rfl
@[simp] theorem State.withHost_eng (s : State) (h : HostRegs) : (s.withHost h).eng = s.eng := rfl
@[simp] theorem State.withHost_ctl (s : State) (h : HostRegs) : (s.withHost h).ctl = s.ctl := rfl
@[simp] theorem State.withHost_wire (s : State) (h : HostRegs) : (s.withHost h).wire = s.wire := rfl
@[simp] theorem State.withHost_fault (s : State) (h : HostRegs) : (s.withHost h).fault = s.fault := rfl
@[simp] theorem State.withHost_mem (s : State) (h : HostRegs) : (s.withHost h).mem = s.mem := rfl
@[simp] theorem State.withHost_resp (s : State) (h : HostRegs) : (s.withHost h).resp = s.resp := rfl
@[simp] theorem State.withHost_trace (s : State) (h : HostRegs) : (s.withHost h).trace = s.trace := rfl
@[simp] theorem State.withHost_rdata (s : State) (h : HostRegs) : (s.withHost h).rdata = s.rdata := rfl
@[simp] theorem State.withHost_stale (s : State) (h : HostRegs) : (s.withHost h).stale = s.stale := rfl
@[simp] theorem State.withHost_script (s : State) (h : HostRegs) : (s.withHost h).script = s.script := rfl
@[simp] theorem State.withHost_tick (s : State) (h : HostRegs) : (s.withHost h).tick = s.tick := rfl

/-! ### State.record -/

@[simp] theorem State.record_host (s : State) (w : OpWord) : (s.record w).host = s.host := rfl
@[simp] theorem State.record_eng (s : State) (w : OpWord) : (s.record w).eng = s.eng := rfl
@[simp] theorem State.record_ctl (s : State) (w : OpWord) : (s.record w).ctl = s.ctl := rfl
@[simp] theorem State.record_wire (s : State) (w : OpWord) : (s.record w).wire = s.wire := rfl
@[simp] theorem State.record_fault (s : State) (w : OpWord) : (s.record w).fault = s.fault := rfl
@[simp] theorem State.record_mem (s : State) (w : OpWord) : (s.record w).mem = s.mem := rfl
@[simp] theorem State.record_resp (s : State) (w : OpWord) : (s.record w).resp = s.resp := rfl
@[simp] theorem State.record_trace (s : State) (w : OpWord) : (s.record w).trace = s.trace ++ [⟨w, s.resp⟩] := rfl
@[simp] theorem State.record_rdata (s : State) (w : OpWord) : (s.record w).rdata = s.rdata := rfl
@[simp] theorem State.record_stale (s : State) (w : OpWord) : (s.record w).stale = s.stale := rfl
@[simp] theorem State.record_script (s : State) (w : OpWord) : (s.record w).script = s.script := rfl
@[simp] theorem State.record_tick (s : State) (w : OpWord) : (s.record w).tick = s.tick := rfl

/-! ### State.readWord -/

@[simp] theorem State.readWord_host (s : State) (w : Word) : (s.readWord w).host = s.host := rfl
@[simp] theorem State.readWord_eng (s : State) (w : Word) : (s.readWord w).eng = s.eng := rfl
@[simp] theorem State.readWord_ctl (s : State) (w : Word) : (s.readWord w).ctl = s.ctl := rfl
@[simp] theorem State.readWord_wire (s : State) (w : Word) : (s.readWord w).wire = s.wire := rfl
@[simp] theorem State.readWord_fault (s : State) (w : Word) : (s.readWord w).fault = s.fault := rfl
@[simp] theorem State.readWord_mem (s : State) (w : Word) : (s.readWord w).mem = s.mem := rfl
@[simp] theorem State.readWord_resp (s : State) (w : Word) : (s.readWord w).resp = s.resp := rfl
@[simp] theorem State.readWord_trace (s : State) (w : Word) : (s.readWord w).trace = s.trace := rfl
@[simp] theorem State.readWord_rdata (s : State) (w : Word) : (s.readWord w).rdata = w.setWidth 64 := rfl
@[simp] theorem State.readWord_stale (s : State) (w : Word) : (s.readWord w).stale = s.stale := rfl
@[simp] theorem State.readWord_script (s : State) (w : Word) : (s.readWord w).script = s.script := rfl
@[simp] theorem State.readWord_tick (s : State) (w : Word) : (s.readWord w).tick = s.tick := rfl

/-! ### storeByte -/

@[simp] theorem storeByte_host (p : Params) (a : Addr) (b : Byte) (s : State) :
    (storeByte p a b s).host = s.host := rfl
@[simp] theorem storeByte_eng (p : Params) (a : Addr) (b : Byte) (s : State) :
    (storeByte p a b s).eng = s.eng := rfl
@[simp] theorem storeByte_ctl (p : Params) (a : Addr) (b : Byte) (s : State) :
    (storeByte p a b s).ctl = s.ctl := rfl
@[simp] theorem storeByte_wire (p : Params) (a : Addr) (b : Byte) (s : State) :
    (storeByte p a b s).wire = s.wire := rfl
@[simp] theorem storeByte_fault (p : Params) (a : Addr) (b : Byte) (s : State) :
    (storeByte p a b s).fault = s.fault := rfl
@[simp] theorem storeByte_mem (p : Params) (a : Addr) (b : Byte) (s : State) :
    (storeByte p a b s).mem = s.mem.write a.toNat b := rfl
@[simp] theorem storeByte_resp (p : Params) (a : Addr) (b : Byte) (s : State) :
    (storeByte p a b s).resp = s.resp := rfl
@[simp] theorem storeByte_trace (p : Params) (a : Addr) (b : Byte) (s : State) :
    (storeByte p a b s).trace = s.trace := rfl
@[simp] theorem storeByte_rdata (p : Params) (a : Addr) (b : Byte) (s : State) :
    (storeByte p a b s).rdata = s.rdata := rfl
@[simp] theorem storeByte_stale (p : Params) (a : Addr) (b : Byte) (s : State) :
    (storeByte p a b s).stale = if s.owns a then (a.toNat, s.byteAt p a) :: s.stale else s.stale := rfl
@[simp] theorem storeByte_script (p : Params) (a : Addr) (b : Byte) (s : State) :
    (storeByte p a b s).script = s.script := rfl
@[simp] theorem storeByte_tick (p : Params) (a : Addr) (b : Byte) (s : State) :
    (storeByte p a b s).tick = s.tick := rfl

/-! ### resetStep -/

@[simp] theorem resetStep_host (s : State) : (resetStep s).host = HostRegs.reset := rfl
@[simp] theorem resetStep_eng (s : State) : (resetStep s).eng = Engine.reset := rfl
@[simp] theorem resetStep_ctl (s : State) : (resetStep s).ctl = Ctrl.reset := rfl
@[simp] theorem resetStep_wire (s : State) : (resetStep s).wire = [] := rfl
@[simp] theorem resetStep_fault (s : State) : (resetStep s).fault = [] := rfl
@[simp] theorem resetStep_mem (s : State) : (resetStep s).mem = s.mem := rfl
@[simp] theorem resetStep_resp (s : State) : (resetStep s).resp = none := rfl
@[simp] theorem resetStep_trace (s : State) : (resetStep s).trace = [] := rfl
@[simp] theorem resetStep_rdata (s : State) : (resetStep s).rdata = s.rdata := rfl
@[simp] theorem resetStep_stale (s : State) : (resetStep s).stale = [] := rfl
@[simp] theorem resetStep_script (s : State) : (resetStep s).script = s.script := rfl
@[simp] theorem resetStep_tick (s : State) : (resetStep s).tick = s.tick := rfl

/-! ### popMove: only the queue and the counter move -/

@[simp] theorem popMove_host (s : State) : (popMove s).host = s.host := by
  unfold popMove; split <;> rfl
@[simp] theorem popMove_eng (s : State) : (popMove s).eng = s.eng := by
  unfold popMove; split <;> rfl
@[simp] theorem popMove_ctl (s : State) : (popMove s).ctl = s.ctl := by
  unfold popMove; split <;> rfl
@[simp] theorem popMove_wire (s : State) : (popMove s).wire = s.wire := by
  unfold popMove; split <;> rfl
@[simp] theorem popMove_fault (s : State) : (popMove s).fault = s.fault := by
  unfold popMove; split <;> rfl
@[simp] theorem popMove_mem (s : State) : (popMove s).mem = s.mem := by
  unfold popMove; split <;> rfl
@[simp] theorem popMove_resp (s : State) : (popMove s).resp = s.resp := by
  unfold popMove; split <;> rfl
@[simp] theorem popMove_trace (s : State) : (popMove s).trace = s.trace := by
  unfold popMove; split <;> rfl
@[simp] theorem popMove_rdata (s : State) : (popMove s).rdata = s.rdata := by
  unfold popMove; split <;> rfl
@[simp] theorem popMove_stale (s : State) : (popMove s).stale = s.stale := by
  unfold popMove; split <;> rfl

/-! ### Engine -/

@[simp] theorem Engine.at_lAddr (e : Engine) (m : Micro) : (e.at m).lAddr = e.lAddr := rfl
@[simp] theorem Engine.at_lHp (e : Engine) (m : Micro) : (e.at m).lHp = e.lHp := rfl
@[simp] theorem Engine.at_lHl (e : Engine) (m : Micro) : (e.at m).lHl = e.lHl := rfl
@[simp] theorem Engine.at_lPp (e : Engine) (m : Micro) : (e.at m).lPp = e.lPp := rfl
@[simp] theorem Engine.at_lPl (e : Engine) (m : Micro) : (e.at m).lPl = e.lPl := rfl
@[simp] theorem Engine.at_seg (e : Engine) (m : Micro) : (e.at m).seg = e.seg := rfl
@[simp] theorem Engine.at_rem (e : Engine) (m : Micro) : (e.at m).rem = e.rem := rfl
@[simp] theorem Engine.at_out (e : Engine) (m : Micro) : (e.at m).out = e.out := rfl
@[simp] theorem Engine.at_cause (e : Engine) (m : Micro) : (e.at m).cause = e.cause := rfl
@[simp] theorem Engine.at_pushed (e : Engine) (m : Micro) : (e.at m).pushed = e.pushed := rfl
@[simp] theorem Engine.at_ms (e : Engine) (m : Micro) : (e.at m).ms = m := rfl

@[simp] theorem Engine.reject_lAddr (e : Engine) (c : Cause) : (e.reject c).lAddr = e.lAddr := rfl
@[simp] theorem Engine.reject_lHp (e : Engine) (c : Cause) : (e.reject c).lHp = e.lHp := rfl
@[simp] theorem Engine.reject_lHl (e : Engine) (c : Cause) : (e.reject c).lHl = e.lHl := rfl
@[simp] theorem Engine.reject_lPp (e : Engine) (c : Cause) : (e.reject c).lPp = e.lPp := rfl
@[simp] theorem Engine.reject_lPl (e : Engine) (c : Cause) : (e.reject c).lPl = e.lPl := rfl
@[simp] theorem Engine.reject_seg (e : Engine) (c : Cause) : (e.reject c).seg = e.seg := rfl
@[simp] theorem Engine.reject_rem (e : Engine) (c : Cause) : (e.reject c).rem = e.rem := rfl
@[simp] theorem Engine.reject_out (e : Engine) (c : Cause) : (e.reject c).out = e.out := rfl
@[simp] theorem Engine.reject_cause (e : Engine) (c : Cause) : (e.reject c).cause = c := rfl
@[simp] theorem Engine.reject_pushed (e : Engine) (c : Cause) : (e.reject c).pushed = e.pushed := rfl
@[simp] theorem Engine.reject_ms (e : Engine) (c : Cause) : (e.reject c).ms = .doneR := rfl

@[simp] theorem Engine.complete_lAddr (e : Engine) : (e.complete).lAddr = e.lAddr := rfl
@[simp] theorem Engine.complete_lHp (e : Engine) : (e.complete).lHp = e.lHp := rfl
@[simp] theorem Engine.complete_lHl (e : Engine) : (e.complete).lHl = e.lHl := rfl
@[simp] theorem Engine.complete_lPp (e : Engine) : (e.complete).lPp = e.lPp := rfl
@[simp] theorem Engine.complete_lPl (e : Engine) : (e.complete).lPl = e.lPl := rfl
@[simp] theorem Engine.complete_seg (e : Engine) : (e.complete).seg = e.seg := rfl
@[simp] theorem Engine.complete_rem (e : Engine) : (e.complete).rem = e.rem := rfl
@[simp] theorem Engine.complete_out (e : Engine) : (e.complete).out = true := rfl
@[simp] theorem Engine.complete_cause (e : Engine) : (e.complete).cause = e.cause := rfl
@[simp] theorem Engine.complete_pushed (e : Engine) : (e.complete).pushed = e.pushed := rfl
@[simp] theorem Engine.complete_ms (e : Engine) : (e.complete).ms = .doneC := rfl

@[simp] theorem Engine.abandon_lAddr (e : Engine) : (e.abandon).lAddr = e.lAddr := rfl
@[simp] theorem Engine.abandon_lHp (e : Engine) : (e.abandon).lHp = e.lHp := rfl
@[simp] theorem Engine.abandon_lHl (e : Engine) : (e.abandon).lHl = e.lHl := rfl
@[simp] theorem Engine.abandon_lPp (e : Engine) : (e.abandon).lPp = e.lPp := rfl
@[simp] theorem Engine.abandon_lPl (e : Engine) : (e.abandon).lPl = e.lPl := rfl
@[simp] theorem Engine.abandon_seg (e : Engine) : (e.abandon).seg = e.seg := rfl
@[simp] theorem Engine.abandon_rem (e : Engine) : (e.abandon).rem = e.rem := rfl
@[simp] theorem Engine.abandon_out (e : Engine) : (e.abandon).out = e.out := rfl
@[simp] theorem Engine.abandon_cause (e : Engine) : (e.abandon).cause = .nack := rfl
@[simp] theorem Engine.abandon_pushed (e : Engine) : (e.abandon).pushed = e.pushed := rfl
@[simp] theorem Engine.abandon_ms (e : Engine) : (e.abandon).ms = .rjClrN := rfl

@[simp] theorem Engine.headerSent_lAddr (e : Engine) : (e.headerSent).lAddr = e.lAddr := rfl
@[simp] theorem Engine.headerSent_lHp (e : Engine) : (e.headerSent).lHp = e.lHp := rfl
@[simp] theorem Engine.headerSent_lHl (e : Engine) : (e.headerSent).lHl = e.lHl := rfl
@[simp] theorem Engine.headerSent_lPp (e : Engine) : (e.headerSent).lPp = e.lPp := rfl
@[simp] theorem Engine.headerSent_lPl (e : Engine) : (e.headerSent).lPl = e.lPl := rfl
@[simp] theorem Engine.headerSent_seg (e : Engine) : (e.headerSent).seg = e.seg - 1#8 := rfl
@[simp] theorem Engine.headerSent_rem (e : Engine) : (e.headerSent).rem = e.rem := rfl
@[simp] theorem Engine.headerSent_out (e : Engine) : (e.headerSent).out = e.out := rfl
@[simp] theorem Engine.headerSent_cause (e : Engine) : (e.headerSent).cause = e.cause := rfl
@[simp] theorem Engine.headerSent_pushed (e : Engine) : (e.headerSent).pushed = e.pushed + 1#32 := rfl
@[simp] theorem Engine.headerSent_ms (e : Engine) : (e.headerSent).ms = if e.seg - 1#8 = 0#8 then .rpTcr else .hNack := rfl

@[simp] theorem Engine.payloadSent_lAddr (e : Engine) : e.payloadSent.lAddr = e.lAddr := by
  unfold Engine.payloadSent; dsimp only; split_ifs <;> rfl
@[simp] theorem Engine.payloadSent_lHp (e : Engine) : e.payloadSent.lHp = e.lHp := by
  unfold Engine.payloadSent; dsimp only; split_ifs <;> rfl
@[simp] theorem Engine.payloadSent_lHl (e : Engine) : e.payloadSent.lHl = e.lHl := by
  unfold Engine.payloadSent; dsimp only; split_ifs <;> rfl
@[simp] theorem Engine.payloadSent_lPp (e : Engine) : e.payloadSent.lPp = e.lPp := by
  unfold Engine.payloadSent; dsimp only; split_ifs <;> rfl
@[simp] theorem Engine.payloadSent_lPl (e : Engine) : e.payloadSent.lPl = e.lPl := by
  unfold Engine.payloadSent; dsimp only; split_ifs <;> rfl
@[simp] theorem Engine.payloadSent_seg (e : Engine) : e.payloadSent.seg = e.seg - 1#8 := by
  unfold Engine.payloadSent; dsimp only; split_ifs <;> rfl
@[simp] theorem Engine.payloadSent_rem (e : Engine) : e.payloadSent.rem = e.rem - 1#32 := by
  unfold Engine.payloadSent; dsimp only; split_ifs <;> rfl
@[simp] theorem Engine.payloadSent_cause (e : Engine) : e.payloadSent.cause = e.cause := by
  unfold Engine.payloadSent; dsimp only; split_ifs <;> rfl
@[simp] theorem Engine.payloadSent_pushed (e : Engine) : e.payloadSent.pushed = e.pushed + 1#32 := by
  unfold Engine.payloadSent; dsimp only; split_ifs <;> rfl

/-- Where ENGINE goes after a payload byte (R192). -/
theorem Engine.payloadSent_ms (e : Engine) :
    e.payloadSent.ms = if e.seg - 1#8 ≠ 0#8 then .pNack else if e.rem - 1#32 ≠ 0#32 then .rpTcr else .doneC := by
  unfold Engine.payloadSent; dsimp only; split_ifs <;> rfl

/-- The outcome after a payload byte: Completed after the last one (R192). -/
theorem Engine.payloadSent_out (e : Engine) :
    e.payloadSent.out = if e.seg - 1#8 ≠ 0#8 then e.out else if e.rem - 1#32 ≠ 0#32 then e.out else true := by
  unfold Engine.payloadSent; dsimp only; split_ifs <;> rfl

/-! ### State.freeSadd -/

@[simp] theorem State.freeSadd_host (p : Params) (s : State) :
    (s.freeSadd p).host = s.host := rfl
@[simp] theorem State.freeSadd_eng (p : Params) (s : State) :
    (s.freeSadd p).eng = s.eng := rfl
@[simp] theorem State.freeSadd_ctl (p : Params) (s : State) :
    (s.freeSadd p).ctl = { s.ctl with saddRest := p.saddFree s.tick } := rfl
@[simp] theorem State.freeSadd_wire (p : Params) (s : State) :
    (s.freeSadd p).wire = s.wire := rfl
@[simp] theorem State.freeSadd_fault (p : Params) (s : State) :
    (s.freeSadd p).fault = s.fault := rfl
@[simp] theorem State.freeSadd_mem (p : Params) (s : State) :
    (s.freeSadd p).mem = s.mem := rfl
@[simp] theorem State.freeSadd_resp (p : Params) (s : State) :
    (s.freeSadd p).resp = s.resp := rfl
@[simp] theorem State.freeSadd_trace (p : Params) (s : State) :
    (s.freeSadd p).trace = s.trace := rfl
@[simp] theorem State.freeSadd_rdata (p : Params) (s : State) :
    (s.freeSadd p).rdata = s.rdata := rfl
@[simp] theorem State.freeSadd_stale (p : Params) (s : State) :
    (s.freeSadd p).stale = s.stale := rfl
@[simp] theorem State.freeSadd_script (p : Params) (s : State) :
    (s.freeSadd p).script = s.script := rfl
@[simp] theorem State.freeSadd_tick (p : Params) (s : State) :
    (s.freeSadd p).tick = s.tick + 1 := rfl

/-! ### Ctrl -/

@[simp] theorem Ctrl.openFrame_sadd7 (c : Ctrl) : (c.openFrame).sadd7 = c.sadd7 := rfl
@[simp] theorem Ctrl.openFrame_saddRest (c : Ctrl) : (c.openFrame).saddRest = c.saddRest := rfl
@[simp] theorem Ctrl.openFrame_rdWrn (c : Ctrl) : (c.openFrame).rdWrn = c.rdWrn := rfl
@[simp] theorem Ctrl.openFrame_nbytes (c : Ctrl) : (c.openFrame).nbytes = c.nbytes := rfl
@[simp] theorem Ctrl.openFrame_autoend (c : Ctrl) : (c.openFrame).autoend = c.autoend := rfl
@[simp] theorem Ctrl.openFrame_reload (c : Ctrl) : (c.openFrame).reload = c.reload := rfl
@[simp] theorem Ctrl.openFrame_txdr (c : Ctrl) : (c.openFrame).txdr = c.txdr := rfl
@[simp] theorem Ctrl.openFrame_txis (c : Ctrl) : (c.openFrame).txis = c.txis := rfl
@[simp] theorem Ctrl.openFrame_tcr (c : Ctrl) : (c.openFrame).tcr = c.tcr := rfl
@[simp] theorem Ctrl.openFrame_nackf (c : Ctrl) : (c.openFrame).nackf = c.nackf := rfl
@[simp] theorem Ctrl.openFrame_busy (c : Ctrl) : (c.openFrame).busy = true := rfl
@[simp] theorem Ctrl.openFrame_phase (c : Ctrl) : (c.openFrame).phase = .addr := rfl

@[simp] theorem Ctrl.takeByte_sadd7 (c : Ctrl) (b : Byte) : (c.takeByte b).sadd7 = c.sadd7 := rfl
@[simp] theorem Ctrl.takeByte_saddRest (c : Ctrl) (b : Byte) : (c.takeByte b).saddRest = c.saddRest := rfl
@[simp] theorem Ctrl.takeByte_rdWrn (c : Ctrl) (b : Byte) : (c.takeByte b).rdWrn = c.rdWrn := rfl
@[simp] theorem Ctrl.takeByte_nbytes (c : Ctrl) (b : Byte) : (c.takeByte b).nbytes = c.nbytes - 1#8 := rfl
@[simp] theorem Ctrl.takeByte_autoend (c : Ctrl) (b : Byte) : (c.takeByte b).autoend = c.autoend := rfl
@[simp] theorem Ctrl.takeByte_reload (c : Ctrl) (b : Byte) : (c.takeByte b).reload = c.reload := rfl
@[simp] theorem Ctrl.takeByte_txdr (c : Ctrl) (b : Byte) : (c.takeByte b).txdr = b := rfl
@[simp] theorem Ctrl.takeByte_txis (c : Ctrl) (b : Byte) : (c.takeByte b).txis = false := rfl
@[simp] theorem Ctrl.takeByte_tcr (c : Ctrl) (b : Byte) : (c.takeByte b).tcr = c.tcr := rfl
@[simp] theorem Ctrl.takeByte_nackf (c : Ctrl) (b : Byte) : (c.takeByte b).nackf = c.nackf := rfl
@[simp] theorem Ctrl.takeByte_busy (c : Ctrl) (b : Byte) : (c.takeByte b).busy = c.busy := rfl
@[simp] theorem Ctrl.takeByte_phase (c : Ctrl) (b : Byte) : (c.takeByte b).phase = .data := rfl

@[simp] theorem Ctrl.refuse_sadd7 (c : Ctrl) : (c.refuse).sadd7 = c.sadd7 := rfl
@[simp] theorem Ctrl.refuse_saddRest (c : Ctrl) : (c.refuse).saddRest = c.saddRest := rfl
@[simp] theorem Ctrl.refuse_rdWrn (c : Ctrl) : (c.refuse).rdWrn = c.rdWrn := rfl
@[simp] theorem Ctrl.refuse_nbytes (c : Ctrl) : (c.refuse).nbytes = c.nbytes := rfl
@[simp] theorem Ctrl.refuse_autoend (c : Ctrl) : (c.refuse).autoend = c.autoend := rfl
@[simp] theorem Ctrl.refuse_reload (c : Ctrl) : (c.refuse).reload = c.reload := rfl
@[simp] theorem Ctrl.refuse_txdr (c : Ctrl) : (c.refuse).txdr = c.txdr := rfl
@[simp] theorem Ctrl.refuse_txis (c : Ctrl) : (c.refuse).txis = c.txis := rfl
@[simp] theorem Ctrl.refuse_tcr (c : Ctrl) : (c.refuse).tcr = c.tcr := rfl
@[simp] theorem Ctrl.refuse_nackf (c : Ctrl) : (c.refuse).nackf = true := rfl
@[simp] theorem Ctrl.refuse_busy (c : Ctrl) : (c.refuse).busy = c.busy := rfl
@[simp] theorem Ctrl.refuse_phase (c : Ctrl) : (c.refuse).phase = .nackHold := rfl

@[simp] theorem Ctrl.release_sadd7 (c : Ctrl) : (c.release).sadd7 = c.sadd7 := rfl
@[simp] theorem Ctrl.release_saddRest (c : Ctrl) : (c.release).saddRest = c.saddRest := rfl
@[simp] theorem Ctrl.release_rdWrn (c : Ctrl) : (c.release).rdWrn = c.rdWrn := rfl
@[simp] theorem Ctrl.release_nbytes (c : Ctrl) : (c.release).nbytes = c.nbytes := rfl
@[simp] theorem Ctrl.release_autoend (c : Ctrl) : (c.release).autoend = c.autoend := rfl
@[simp] theorem Ctrl.release_reload (c : Ctrl) : (c.release).reload = c.reload := rfl
@[simp] theorem Ctrl.release_txdr (c : Ctrl) : (c.release).txdr = c.txdr := rfl
@[simp] theorem Ctrl.release_txis (c : Ctrl) : (c.release).txis = c.txis := rfl
@[simp] theorem Ctrl.release_tcr (c : Ctrl) : (c.release).tcr = c.tcr := rfl
@[simp] theorem Ctrl.release_nackf (c : Ctrl) : (c.release).nackf = c.nackf := rfl
@[simp] theorem Ctrl.release_busy (c : Ctrl) : (c.release).busy = false := rfl
@[simp] theorem Ctrl.release_phase (c : Ctrl) : (c.release).phase = .free := rfl

@[simp] theorem Ctrl.clearNack_sadd7 (c : Ctrl) : (c.clearNack).sadd7 = c.sadd7 := rfl
@[simp] theorem Ctrl.clearNack_saddRest (c : Ctrl) : (c.clearNack).saddRest = c.saddRest := rfl
@[simp] theorem Ctrl.clearNack_rdWrn (c : Ctrl) : (c.clearNack).rdWrn = c.rdWrn := rfl
@[simp] theorem Ctrl.clearNack_nbytes (c : Ctrl) : (c.clearNack).nbytes = c.nbytes := rfl
@[simp] theorem Ctrl.clearNack_autoend (c : Ctrl) : (c.clearNack).autoend = c.autoend := rfl
@[simp] theorem Ctrl.clearNack_reload (c : Ctrl) : (c.clearNack).reload = c.reload := rfl
@[simp] theorem Ctrl.clearNack_txdr (c : Ctrl) : (c.clearNack).txdr = c.txdr := rfl
@[simp] theorem Ctrl.clearNack_txis (c : Ctrl) : (c.clearNack).txis = c.txis := rfl
@[simp] theorem Ctrl.clearNack_tcr (c : Ctrl) : (c.clearNack).tcr = c.tcr := rfl
@[simp] theorem Ctrl.clearNack_nackf (c : Ctrl) : (c.clearNack).nackf = false := rfl
@[simp] theorem Ctrl.clearNack_busy (c : Ctrl) : (c.clearNack).busy = c.busy := rfl
@[simp] theorem Ctrl.clearNack_phase (c : Ctrl) : (c.clearNack).phase = c.phase := rfl

@[simp] theorem Ctrl.resume_sadd7 (c : Ctrl) (n : Byte) : (c.resume n).sadd7 = c.sadd7 := by
  unfold Ctrl.resume; split_ifs <;> rfl
@[simp] theorem Ctrl.resume_saddRest (c : Ctrl) (n : Byte) : (c.resume n).saddRest = c.saddRest := by
  unfold Ctrl.resume; split_ifs <;> rfl
@[simp] theorem Ctrl.resume_rdWrn (c : Ctrl) (n : Byte) : (c.resume n).rdWrn = c.rdWrn := by
  unfold Ctrl.resume; split_ifs <;> rfl
@[simp] theorem Ctrl.resume_nbytes (c : Ctrl) (n : Byte) : (c.resume n).nbytes = n := by
  unfold Ctrl.resume; split_ifs <;> rfl
@[simp] theorem Ctrl.resume_autoend (c : Ctrl) (n : Byte) : (c.resume n).autoend = c.autoend := by
  unfold Ctrl.resume; split_ifs <;> rfl
@[simp] theorem Ctrl.resume_reload (c : Ctrl) (n : Byte) : (c.resume n).reload = c.reload := by
  unfold Ctrl.resume; split_ifs <;> rfl
@[simp] theorem Ctrl.resume_txdr (c : Ctrl) (n : Byte) : (c.resume n).txdr = c.txdr := by
  unfold Ctrl.resume; split_ifs <;> rfl
@[simp] theorem Ctrl.resume_txis (c : Ctrl) (n : Byte) : (c.resume n).txis = if n = 0#8 then c.txis else true := by
  unfold Ctrl.resume; split_ifs <;> rfl
@[simp] theorem Ctrl.resume_tcr (c : Ctrl) (n : Byte) : (c.resume n).tcr = false := by
  unfold Ctrl.resume; split_ifs <;> rfl
@[simp] theorem Ctrl.resume_nackf (c : Ctrl) (n : Byte) : (c.resume n).nackf = c.nackf := by
  unfold Ctrl.resume; split_ifs <;> rfl
@[simp] theorem Ctrl.resume_busy (c : Ctrl) (n : Byte) : (c.resume n).busy = c.busy := by
  unfold Ctrl.resume; split_ifs <;> rfl
@[simp] theorem Ctrl.resume_phase (c : Ctrl) (n : Byte) : (c.resume n).phase = if n = 0#8 then .segEmpty else .awaitTx := by
  unfold Ctrl.resume; split_ifs <;> rfl

end Sys2Proof.Machine
end

