-- ==== Sys2Proof/Laws/Ops.lean ====
section
/-! SUPPORT. What each shared operation can do, once: the ops of CTRL, the operation port, a BUS answer. -/

namespace Sys2Proof.Machine

/-! ### The FAULT mark -/

/-- With no fault recorded, raising one records exactly it. -/
theorem raise_of_noFault {s : State} (h : s.fault = []) (r : FaultReason) : s.raise r = { s with fault := [r] } := by
  simp [State.raise, h]

/-- A raised fault leaves the mark non-empty. -/
theorem raise_fault_ne_nil (s : State) (r : FaultReason) : (s.raise r).fault ≠ [] := by
  rw [State.raise_fault]
  split_ifs with h
  · exact List.ne_nil_of_mem h
  · simp

/-- A guarded op has its effect or raises its fault. -/
theorem guarded_cases {ok : Bool} {r : FaultReason} {s t u : State} (h : guarded ok r s t = .next u) :
    (ok = true ∧ u = t) ∨ (ok = false ∧ u = s.raise r) := by
  unfold guarded at h
  cases ok <;> simp_all

/-- With no fault recorded, a guarded op ends without one exactly when its precondition holds. -/
theorem guarded_noFault {ok : Bool} {r : FaultReason} {s t u : State} (h : guarded ok r s t = .next u)
    (hu : u.fault = []) : ok = true ∧ u = t := by
  rcases guarded_cases h with h | ⟨-, rfl⟩
  · exact h
  · exact absurd hu (raise_fault_ne_nil s r)

/-! ### The ops -/

/-- SETADDR outside a frame. -/
theorem exec_setaddr_free {a : Target} {s : State} (h : s.ctl.phase = .free) :
    exec (.setaddr a) s = .next (s.answer none { s.ctl with sadd7 := a, saddRest := 0#3 }) := by
  simp [exec, execSetaddr, configure, guarded, h]

/-- SETDIR outside a frame. -/
theorem exec_setdir_free {d : Bool} {s : State} (h : s.ctl.phase = .free) :
    exec (.setdir d) s = .next (s.answer none { s.ctl with rdWrn := d }) := by
  simp [exec, execSetdir, configure, guarded, h]

/-- SETAUTOEND outside a frame. -/
theorem exec_setautoend_free {e : Bool} {s : State} (h : s.ctl.phase = .free) :
    exec (.setautoend e) s = .next (s.answer none { s.ctl with autoend := e }) := by
  simp [exec, execSetautoend, configure, guarded, h]

/-- SETNBYTES outside a frame. -/
theorem exec_setnbytes_free {n : Byte} {s : State} (h : s.ctl.phase = .free) :
    exec (.setnbytes n) s = .next (s.answer none { s.ctl with nbytes := n }) := by
  simp [exec, execSetnbytes, h]

/-- SETNBYTES in a reload wait. -/
theorem exec_setnbytes_reloadWait {n : Byte} {s : State} (h : s.ctl.phase = .reloadWait) :
    exec (.setnbytes n) s = .next (s.answer none (s.ctl.resume n)) := by
  simp [exec, execSetnbytes, h]

/-- SETRELOAD 1, in any phase. -/
theorem exec_setreload_true (s : State) :
    exec (.setreload true) s = .next (s.answer none { s.ctl with reload := true }) := by
  simp [exec, execSetreload, guarded]

/-- SETRELOAD 0 outside a reload wait. -/
theorem exec_setreload_false {s : State} (h : s.ctl.phase ≠ .reloadWait) :
    exec (.setreload false) s = .next (s.answer none { s.ctl with reload := false }) := by
  simp [exec, execSetreload, guarded, h]

/-- START outside a frame, in the write direction. -/
theorem exec_start_free {s : State} (h : s.ctl.phase = .free) (hw : s.ctl.rdWrn = false) :
    exec .start s = .next ((s.log .start).answer none s.ctl.openFrame) := by
  simp [exec, execStart, guarded, h, hw]

/-- PUSH when the controller is ready. -/
theorem exec_push_ready {b : Byte} {s : State} (h : s.ctl.txis = true) :
    exec (.push b) s = .next (s.answer none (s.ctl.takeByte b)) := by
  simp [exec, execPush, guarded, h]

/-- Everything an op can do: it raises a fault and changes nothing else, or it answers with new CTRL registers and, if it is
START, logs S. -/
theorem exec_op_cases {i : Instr} (hi : i.isOp = true) (s : State) :
    (∃ r, exec i s = .next (s.raise r)) ∨
    (∃ o c, exec i s = .next (s.answer o c)) ∨
    (i = .start ∧ s.ctl.phase = .free ∧ exec i s = .next ((s.log .start).answer none s.ctl.openFrame)) := by
  have hg : ∀ (ok : Bool) (r : FaultReason) (c : Ctrl),
      (∃ r', guarded ok r s (s.answer none c) = .next (s.raise r')) ∨
      (∃ o c', guarded ok r s (s.answer none c) = .next (s.answer o c')) := by
    intro ok r c; cases ok
    · exact .inl ⟨r, by simp [guarded]⟩
    · exact .inr ⟨none, c, by simp [guarded]⟩
  cases i with
  | setaddr a => exact (hg _ _ _).imp id .inl
  | setdir d => exact (hg _ _ _).imp id .inl
  | setautoend e => exact (hg _ _ _).imp id .inl
  | setreload r => exact (hg _ _ _).imp id .inl
  | push b => exact (hg _ _ _).imp id .inl
  | setnbytes n =>
    cases hp : s.ctl.phase <;> simp only [exec, execSetnbytes, hp]
    case free => exact .inr (.inl ⟨_, _, rfl⟩)
    case reloadWait => exact .inr (.inl ⟨_, _, rfl⟩)
    all_goals exact .inl ⟨_, rfl⟩
  | start =>
    simp only [exec, execStart]
    split_ifs with h
    · cases hw : s.ctl.rdWrn
      · exact .inr (.inr ⟨trivial, h, by simp [guarded]⟩)
      · exact .inl ⟨.startRead, by simp [guarded]⟩
    · exact .inl ⟨_, rfl⟩
  | polltxis => exact .inr (.inl ⟨_, _, rfl⟩)
  | polltcr => exact .inr (.inl ⟨_, _, rfl⟩)
  | pollnack => exact .inr (.inl ⟨_, _, rfl⟩)
  | clrnack => exact .inr (.inl ⟨_, _, rfl⟩)
  | pollbusy => exact .inr (.inl ⟨_, _, rfl⟩)
  | go => simp [Instr.isOp] at hi

/-- An op, from a state with no fault recorded, records one reason and changes nothing else, or records none. -/
theorem exec_op_fault {i : Instr} (hi : i.isOp = true) {s t : State} (hs : s.fault = []) (h : exec i s = .next t) :
    t.fault = [] ∨ ∃ r, t = { s with fault := [r] } := by
  rcases exec_op_cases hi s with ⟨r, he⟩ | ⟨o, c, he⟩ | ⟨-, -, he⟩ <;> rw [he] at h <;> cases h
  · exact .inr ⟨r, raise_of_noFault hs r⟩
  · exact .inl (by simpa using hs)
  · exact .inl (by simpa using hs)

/-- Everything a legal register access can be (R65). -/
theorem wordAccess_next {R : Type} {find : Nat → Option R} {off : Nat} {width : Width} {k : R → Result} {u : State}
    (h : wordAccess find off width k = .next u) : width = .word ∧ ∃ r, find off = some r ∧ k r = .next u := by
  unfold wordAccess at h
  split_ifs at h with hw
  split at h
  · rename_i r hr; exact ⟨hw.1, r, hr, h⟩
  · cases h

/-! ### The operation port -/

/-- CTRL reads back the op word ENGINE issues. -/
theorem acceptOpWord_encodeOp {i : Instr} (hi : i.isOp = true) (s : State) :
    acceptOpWord (encodeOp i) s = exec i s := by
  have h : decodeOp (encodeOp i) = .instr i := by
    cases i with
    | setaddr a => exact decodeOp_setaddr a
    | setdir d => exact decodeOp_setdir d
    | setnbytes n => exact decodeOp_setnbytes n
    | setautoend e => exact decodeOp_setautoend e
    | setreload r => exact decodeOp_setreload r
    | push b => exact decodeOp_push b
    | start => rfl
    | polltxis => rfl
    | polltcr => rfl
    | pollnack => rfl
    | clrnack => rfl
    | pollbusy => rfl
    | go => simp [Instr.isOp] at hi
  simp [acceptOpWord, h]

/-- An op that ends without a fault: the trace and ENGINE move on. -/
theorem issue_next {i : Instr} (hi : i.isOp = true) {s t : State} {k : State → Engine} (h : exec i s = .next t)
    (ht : t.fault = []) : issue i s k = .next ((t.record (encodeOp i)).withEng (k t)) := by
  simp [issue, acceptOpWord_encodeOp hi, h, ht]

/-- An op that faults: the step makes no other change. -/
theorem issue_fault {i : Instr} (hi : i.isOp = true) {s t : State} {k : State → Engine} (h : exec i s = .next t)
    (ht : t.fault ≠ []) : issue i s k = .next t := by
  simp [issue, acceptOpWord_encodeOp hi, h, ht]

/-- Everything an issued op can come to, with no fault recorded before. -/
theorem issue_cases {i : Instr} (hi : i.isOp = true) {s u : State} {k : State → Engine} (hs : s.fault = [])
    (h : issue i s k = .next u) :
    (∃ r, u = { s with fault := [r] }) ∨
    (∃ t, exec i s = .next t ∧ t.fault = [] ∧ u = (t.record (encodeOp i)).withEng (k t)) := by
  rcases exec_op_cases hi s with ⟨r, he⟩ | ⟨o, c, he⟩ | ⟨-, -, he⟩
  · rw [issue_fault hi he (raise_fault_ne_nil s r)] at h
    exact .inl ⟨r, by cases h; exact raise_of_noFault hs r⟩
  · rw [issue_next hi he (by simpa using hs)] at h
    exact .inr ⟨_, he, by simpa using hs, by cases h; rfl⟩
  · rw [issue_next hi he (by simpa using hs)] at h
    exact .inr ⟨_, he, by simpa using hs, by cases h; rfl⟩

/-- A poll, issued with no fault recorded. -/
theorem issue_poll {i : Instr} {flag : State → Bool} (hi : i.isOp = true) (hp : ∀ s, exec i s = poll s (flag s))
    {s : State} (hs : s.fault = []) (k : State → Engine) :
    issue i s k =
      .next (((s.answer (some (flag s)) s.ctl).record (encodeOp i)).withEng (k (s.answer (some (flag s)) s.ctl))) :=
  issue_next hi (hp s) (by simpa using hs)

/-! ### BUS -/

/-- The end-of-byte procedure has four ends (R114). -/
theorem afterAck_cases (c : Ctrl) :
    (c.nbytes ≠ 0#8 ∧ c.afterAck = some { c with txis := true, phase := .awaitTx }) ∨
    (c.nbytes = 0#8 ∧ c.reload = true ∧ c.afterAck = some { c with tcr := true, phase := .reloadWait }) ∨
    (c.nbytes = 0#8 ∧ c.reload = false ∧ c.autoend = true ∧ c.afterAck = some { c with phase := .stopping }) ∨
    (c.nbytes = 0#8 ∧ c.reload = false ∧ c.autoend = false ∧ c.afterAck = none) := by
  unfold Ctrl.afterAck
  by_cases hn : c.nbytes = 0#8 <;> cases hr : c.reload <;> cases ha : c.autoend <;> simp [hn]

/-- Everything a device's answer can do (R114 to R116). -/
theorem answered_cases {s u : State} {ev : WireEvent} {answer : Ack} (h : answered s ev answer = .next u) :
    (answer = .nack ∧ u = (s.log ev).withCtl s.ctl.refuse) ∨
    (∃ c, answer = .ack ∧ s.ctl.afterAck = some c ∧ u = (s.log ev).withCtl c) ∨
    (answer = .ack ∧ s.ctl.afterAck = none ∧ u = s.raise .autoendOff) := by
  cases answer with
  | nack => exact .inl ⟨rfl, by simpa [answered] using h.symm⟩
  | ack =>
    simp only [answered] at h
    split at h
    · rename_i c hc; exact .inr (.inl ⟨c, rfl, hc, by cases h; rfl⟩)
    · rename_i hc; exact .inr (.inr ⟨rfl, hc, by cases h; rfl⟩)

end Sys2Proof.Machine
end

