-- ==== Sys2Proof/Laws/CtrlPort.lean ====
section
/-! SUPPORT. What a driver's access to the concrete registers can do (spec/10_state.md R37 to R40, spec/30_encoding.md R89):
where the registers stand, which faults an access records, and one induction for what every access keeps. -/

namespace Sys2Proof.Machine

/-- Each register is found at its offset. -/
@[simp] theorem ctrlRegAt_offset (r : CtrlReg) : ctrlRegAt r.offset = some r := by cases r <;> rfl

/-- A register's address is its offset from CTRL_BASE, wherever CTRL_BASE is. -/
@[simp] theorem CtrlReg.address_sub_toNat (p : Params) (r : CtrlReg) : (r.address p - p.ctrlBase).toNat = r.offset := by
  rw [CtrlReg.address, BitVec.add_comm, BitVec.add_sub_cancel]
  cases r <;> rfl

/-- A word written at a register's address is a write of that register. -/
theorem ctrlAccess_wr (p : Params) (r : CtrlReg) (v : BitVec 64) (s : State) :
    ctrlAccess p (.wr (r.address p) .word v) s = writeCtrlReg p r (v.setWidth 32) s := by
  simp only [ctrlAccess, CtrlReg.address_sub_toNat]
  cases r <;> rfl

/-- A word read at a register's address is a read of that register. -/
theorem ctrlAccess_rd (p : Params) (r : CtrlReg) (s : State) :
    ctrlAccess p (.rd (r.address p) .word) s = readCtrlReg p r s := by
  simp only [ctrlAccess, CtrlReg.address_sub_toNat]
  cases r <;> rfl

/-- A write of SADD is SETADDR, after which the bits outside SADD[7:1] may take a free value. -/
theorem writeSadd_cases {p : Params} {v : BitVec 10} {s u : State} (h : writeSadd p v s = .next u) :
    ∃ t, exec (.setaddr (v.extractLsb' 1 7)) s = .next t ∧ (u = t ∨ (t.fault = [] ∧ u = t.freeSadd p)) := by
  unfold writeSadd at h
  split at h
  · rename_i t ht
    split_ifs at h with hf <;> cases h
    · exact ⟨t, ht, .inr ⟨hf.1, rfl⟩⟩
    · exact ⟨_, ht, .inl rfl⟩
  · cases h
  · cases h

/-- A field update is an op, after which SADD's bits outside SADD[7:1] may take a free value. -/
theorem updateCr2_cases {p : Params} {x : Cr2Update} {s u : State} (h : updateCr2 p x s = .next u) :
    ∃ i t, i.isOp = true ∧ exec i s = .next t ∧ (u = t ∨ (t.fault = [] ∧ u = t.freeSadd p)) := by
  cases x with
  | sadd v => obtain ⟨t, ht, hu⟩ := writeSadd_cases h; exact ⟨_, t, rfl, ht, hu⟩
  | rdWrn d => exact ⟨.setdir d, u, rfl, h, .inl rfl⟩
  | nbytes n => exact ⟨.setnbytes n, u, rfl, h, .inl rfl⟩
  | autoend e => exact ⟨.setautoend e, u, rfl, h, .inl rfl⟩
  | reload r => exact ⟨.setreload r, u, rfl, h, .inl rfl⟩
  | start => exact ⟨.start, u, rfl, h, .inl rfl⟩

/-- A field update, with no fault recorded before, records one reason and changes nothing else, or records none. -/
theorem updateCr2_fault {p : Params} {x : Cr2Update} {s u : State} (hs : s.fault = []) (h : updateCr2 p x s = .next u) :
    u.fault = [] ∨ ∃ r, u = { s with fault := [r] } := by
  obtain ⟨i, t, hi, ht, rfl | ⟨hf, rfl⟩⟩ := updateCr2_cases h
  · exact exec_op_fault hi hs ht
  · exact .inl hf

/-- Several field updates end with no fault or with one. -/
theorem updateAll_fault {p : Params} {us : List Cr2Update} {s u : State} (hs : s.fault = [])
    (h : updateAll p us s = .next u) : u.fault = [] ∨ ∃ r, u.fault = [r] := by
  induction us generalizing s with
  | nil => cases h; exact .inl hs
  | cons x us ih =>
    simp only [updateAll] at h
    split at h
    · rename_i t ht
      split_ifs at h with hf
      · exact ih hf h
      · cases h
        exact (updateCr2_fault hs ht).imp id fun ⟨r, hr⟩ => ⟨r, by rw [hr]⟩
    · cases h
    · cases h

/-- A driver's access, with no fault recorded before, records one reason and changes nothing else, or records none (R215). -/
theorem ctrlAccess_fault {p : Params} {x : CtrlAccess} {s u : State} (hs : s.fault = [])
    (h : ctrlAccess p x s = .next u) : u.fault = [] ∨ ∃ r, u = { s with fault := [r] } := by
  cases x with
  | update x => exact updateCr2_fault hs h
  | rd a width =>
    obtain ⟨-, r, -, hr⟩ := wordAccess_next h
    cases r <;> cases hr <;> exact .inl hs
  | wr a width v =>
    obtain ⟨-, r, -, hr⟩ := wordAccess_next h
    cases r with
    | cr2 =>
      simp only [writeCtrlReg, writeCr2] at hr
      split at hr
      · rename_i t ht
        split_ifs at hr with hf <;> cases hr
        · exact .inl hf
        · obtain h0 | ⟨r, h1⟩ := updateAll_fault hs ht
          · exact absurd h0 hf
          · exact .inr ⟨r, by rw [h1]⟩
      · cases hr
      · cases hr
    | isr => cases hr; exact .inl hs
    | icr =>
      simp only [writeCtrlReg] at hr
      split_ifs at hr
      · cases hr; exact .inl hs
      · exact exec_op_fault rfl hs hr
    | txdr => exact exec_op_fault (i := .push _) rfl hs hr

/-- What every op keeps, and the fields `rdata`, `tick`, `fault` and SADD's bits outside SADD[7:1] do not bear on, every access
of a driver keeps. -/
theorem ctrlAccess_keeps {p : Params} {P : State → Prop}
    (op : ∀ {i : Instr} {s u : State}, i.isOp = true → exec i s = .next u → P s → P u)
    (sadd : ∀ {s : State}, P s → P (s.freeSadd p))
    (read : ∀ {s : State} (v : BitVec 64) (n : Nat), P s → P { s with rdata := v, tick := n })
    (fault : ∀ {s : State} (f : List FaultReason), P s → P { s with fault := f })
    {x : CtrlAccess} {s u : State} (h : ctrlAccess p x s = .next u) (hs : P s) : P u := by
  have one : ∀ {x : Cr2Update} {s u : State}, updateCr2 p x s = .next u → P s → P u := by
    intro x s u h hs
    obtain ⟨i, t, hi, ht, rfl | ⟨-, rfl⟩⟩ := updateCr2_cases h
    · exact op hi ht hs
    · exact sadd (op hi ht hs)
  have all : ∀ {us : List Cr2Update} {s u : State}, updateAll p us s = .next u → P s → P u := by
    intro us
    induction us with
    | nil => intro s u h hs; cases h; exact hs
    | cons x us ih =>
      intro s u h hs
      simp only [updateAll] at h
      split at h
      · rename_i t ht
        split_ifs at h
        · exact ih h (one ht hs)
        · cases h; exact one ht hs
      · cases h
      · cases h
  cases x with
  | update x => exact one h hs
  | rd a width =>
    obtain ⟨-, r, -, hr⟩ := wordAccess_next h
    cases r <;> cases hr <;> exact read (s := s) _ _ hs
  | wr a width v =>
    obtain ⟨-, r, -, hr⟩ := wordAccess_next h
    cases r with
    | cr2 =>
      simp only [writeCtrlReg, writeCr2] at hr
      split at hr
      · rename_i t ht
        split_ifs at hr <;> cases hr
        · exact all ht hs
        · exact fault _ hs
      · cases hr
      · cases hr
    | isr => cases hr; exact hs
    | icr =>
      simp only [writeCtrlReg] at hr
      split_ifs at hr
      · cases hr; exact hs
      · exact op rfl hr hs
    | txdr => exact op (i := .push _) rfl hr hs

end Sys2Proof.Machine
end

