-- ==== Sys2Proof/Laws/Placement.lean ====
section
/-! SUPPORT. The placements of Config are the aligned ones that R67 admits, all of them; when bytes lie in a register block, and
where a HOST access by address goes (spec/20_memory.md R61, R67). -/

namespace Sys2Proof.Machine

/-- Every aligned placement of blocks that do not overlap is one of Config's. -/
theorem placement_complete {e c : Addr} (he : e.toNat % 32 = 0) (hc : c.toNat % 1024 = 0)
    (h : arcsMeet e engineBlockBytes c ctrlBlockBytes = false) :
    ∃ page place, e = engineBaseAt page place ∧ c = ctrlBaseAt page := by
  have hel := e.isLt
  have hcl := c.isLt
  have h1 : ¬ (c - e).toNat < 0x20 := fun hl => by
    rw [arcsMeet, decide_eq_true (show (c - e).toNat < engineBlockBytes from hl)] at h
    simp [engineBlockBytes, ctrlBlockBytes] at h
  have h2 : ¬ (e - c).toNat < 0x2C := fun hl => by
    rw [arcsMeet, decide_eq_true (show (e - c).toNat < ctrlBlockBytes from hl)] at h
    simp [engineBlockBytes, ctrlBlockBytes] at h
  simp only [BitVec.toNat_sub] at h1 h2
  have hpage : (BitVec.ofNat 22 (c.toNat / 1024)).toNat = c.toNat / 1024 := by simp; omega
  by_cases hlow : e.toNat / 32 < 32 * (c.toNat / 1024)
  · refine ⟨BitVec.ofNat 22 (c.toNat / 1024), ⟨e.toNat / 32, by omega⟩, ?_, ?_⟩ <;> apply BitVec.eq_of_toNat_eq
    · simp only [engineBaseAt, engineBlock, hpage, hlow, if_true, BitVec.toNat_ofNat]; omega
    · simp only [ctrlBaseAt, hpage, BitVec.toNat_ofNat]; omega
  · have hn : ¬ (e.toNat / 32 - 2 < 32 * (c.toNat / 1024)) := by omega
    refine ⟨BitVec.ofNat 22 (c.toNat / 1024), ⟨e.toNat / 32 - 2, by omega⟩, ?_, ?_⟩ <;> apply BitVec.eq_of_toNat_eq
    · simp only [engineBaseAt, engineBlock, hpage, hn, if_false, BitVec.toNat_ofNat]; omega
    · simp only [ctrlBaseAt, hpage, BitVec.toNat_ofNat]; omega

/-- Two runs of bytes meet iff some byte of the first is one of the second. -/
theorem arcsMeet_iff {a b : Addr} {n m : Nat} (hn : n ≤ 2 ^ 32) (hm : m ≤ 2 ^ 32) :
    arcsMeet a n b m = true ↔ ∃ i < n, (a + BitVec.ofNat 32 i - b).toNat < m := by
  have ha := a.isLt
  have hb := b.isLt
  simp only [arcsMeet, Bool.and_eq_true, Bool.or_eq_true, decide_eq_true_eq, bne_iff_ne, BitVec.toNat_sub, BitVec.toNat_add,
    BitVec.toNat_ofNat]
  constructor
  · rintro ⟨⟨hn0, hm0⟩, h | h⟩
    · exact ⟨_, h, by omega⟩
    · exact ⟨0, by omega, by omega⟩
  · rintro ⟨i, hi, h⟩
    exact ⟨⟨by omega, by omega⟩, by omega⟩

/-- An access has a byte in ENGINE's block iff the model finds it there. -/
theorem arcsMeet_engine {p : Params} {a : Addr} {n : Nat} (hn : n ≤ 2 ^ 32) :
    arcsMeet a n p.engineBase engineBlockBytes = true ↔ touchesEngine p a n :=
  arcsMeet_iff hn (by decide)

/-- An access has a byte in CTRL's block iff the model finds it there. -/
theorem arcsMeet_ctrl {p : Params} {a : Addr} {n : Nat} (hn : n ≤ 2 ^ 32) :
    arcsMeet a n p.ctrlBase ctrlBlockBytes = true ↔ touchesCtrl p a n :=
  arcsMeet_iff hn (by decide)

/-- An access moves at most eight bytes. -/
theorem bytesOf_le (width : Width) : bytesOf width ≤ 2 ^ 32 := by cases width <;> decide

/-- An access to CTRL's block is refused (R122, R246). -/
theorem routed_ctrl {p : Params} {a : Addr} {width : Width} (h : touchesCtrl p a (bytesOf width)) (reg : Nat → Result)
    (mem : Result) : routed p a width reg mem = .refused (.hostTouchesCtrl a) := by
  simp [routed, (arcsMeet_ctrl (bytesOf_le width)).2 h]

/-- An access to ENGINE's block goes to the registers, by its offset (R61). -/
theorem routed_engine {p : Params} {a : Addr} {width : Width} (hc : ¬ touchesCtrl p a (bytesOf width))
    (he : touchesEngine p a (bytesOf width)) (reg : Nat → Result) (mem : Result) :
    routed p a width reg mem = reg (a - p.engineBase).toNat := by
  simp [routed, (arcsMeet_ctrl (bytesOf_le width)).not.2 hc, (arcsMeet_engine (bytesOf_le width)).2 he]

/-- Any other access goes to HOSTMEM (R61). -/
theorem routed_mem {p : Params} {a : Addr} {width : Width} (h : overlapsRegisters p a (bytesOf width) = false)
    (reg : Nat → Result) (mem : Result) : routed p a width reg mem = mem := by
  simp only [overlapsRegisters, Bool.or_eq_false_iff] at h
  simp [routed, h]

/-- The words of ENGINE's block lie in it and not in CTRL's (R67). -/
theorem engineWord_touches (p : Params) {off : Nat} (h : off < 0x20) (h4 : off % 4 = 0) :
    touchesEngine p (p.engineBase + BitVec.ofNat 32 off) (bytesOf .word) ∧
    ¬ touchesCtrl p (p.engineBase + BitVec.ofNat 32 off) (bytesOf .word) := by
  have hp := p.apart
  have hel := p.engineBase.isLt
  have hcl := p.ctrlBase.isLt
  refine ⟨⟨0, by decide, ?_⟩, ?_⟩
  · simp only [BitVec.toNat_sub, BitVec.toNat_add, BitVec.toNat_ofNat]; omega
  · rintro ⟨i, hi, hlt⟩
    rw [bytesOf] at hi
    refine Bool.eq_false_iff.1 hp ((arcsMeet_iff (by decide) (by decide)).2 ⟨off + i, ?_, ?_⟩)
    · rw [engineBlockBytes]; omega
    · rw [ctrlBlockBytes]
      simp only [BitVec.toNat_sub, BitVec.toNat_add, BitVec.toNat_ofNat] at hlt ⊢; omega

end Sys2Proof.Machine
end

