-- ==== Sys2Proof/Laws/Step.lean ====
section
/-! SUPPORT. What the step as a whole can do, once each: which move is taken, what HOST, BUS and a driver of CTRL can do. -/

namespace Sys2Proof.Machine

/-- A step with a next state: no fault was recorded, and the next move ran on the state it was taken from. -/
theorem advance_next {p : Params} {s t : State} (h : advance p s = .next t) :
    s.fault = [] ∧ runMove p (nextMove p s) (popMove s) = .next t := by
  unfold advance at h
  split at h
  · exact ⟨‹_›, h⟩
  · cases h

/-- With no fault recorded the next move runs. -/
theorem advance_run {p : Params} {s : State} (h : s.fault = []) :
    advance p s = runMove p (nextMove p s) (popMove s) := by
  simp [advance, h]

/-- When only the block's own agents move, the next move is one of theirs, and so are the moves after it. -/
theorem closed_next {p : Params} {s : State} (h : s.closed) :
    (∃ b, nextMove p s = .block b) ∧ (popMove s).closed := by
  unfold nextMove popMove State.closed at *
  cases hs : s.script with
  | nil => exact ⟨⟨_, rfl⟩, by simp⟩
  | cons m ms =>
    rw [hs] at h
    refine ⟨?_, fun x hx => h x (List.mem_cons_of_mem _ hx)⟩
    have := h m (by simp)
    cases m <;> simp_all [Move.isBlock]

/-- Everything BUS can do to a state, by phase (R114 to R119). -/
theorem busStep_cases {p : Params} {answer : Ack} {s u : State} (h : busStep p answer s = .next u) :
    (s.ctl.phase = .addr ∧ busAddr answer s = .next u) ∨ (s.ctl.phase = .data ∧ busData answer s = .next u) ∨
    (s.ctl.phase = .segEmpty ∧ s.ctl.reload = false ∧ p.emptyFinalSegment = .stop ∧
      u = s.withCtl { s.ctl with phase := .stopping }) ∨
    (s.ctl.phase = .stopping ∧ u = (s.log .stop).withCtl s.ctl.release) ∨
    (s.ctl.phase = .nackHold ∧ p.nackReleasesBus = true ∧ u = (s.log .stop).withCtl s.ctl.release) ∨
    (busEnabled p s = false ∧ u = s) := by
  unfold busStep at h
  cases hp : s.ctl.phase <;> simp only [hp] at h
  case addr => exact .inl ⟨rfl, h⟩
  case data => exact .inr (.inl ⟨rfl, h⟩)
  case segEmpty =>
    unfold busEmpty at h
    split_ifs at h with hc
    · exact .inr (.inr (.inl ⟨rfl, hc.1, hc.2, by cases h; rfl⟩))
    · refine .inr (.inr (.inr (.inr (.inr ⟨?_, by cases h; rfl⟩))))
      simp only [busEnabled, hp, Bool.and_eq_false_iff, Bool.not_eq_false', beq_eq_false_iff_ne]
      rcases Bool.eq_false_or_eq_true s.ctl.reload with hr | hr
      · exact .inl hr
      · exact .inr fun he => hc ⟨hr, he⟩
  case stopping => exact .inr (.inr (.inr (.inl ⟨rfl, by cases h; rfl⟩)))
  case nackHold =>
    unfold busNackRelease at h
    split_ifs at h with hc
    · exact .inr (.inr (.inr (.inr (.inl ⟨rfl, hc, by cases h; rfl⟩))))
    · exact .inr (.inr (.inr (.inr (.inr ⟨by simp [busEnabled, hp, hc], by cases h; rfl⟩))))
  all_goals exact .inr (.inr (.inr (.inr (.inr ⟨by simp [busEnabled, hp], by cases h; rfl⟩))))

/-- GO changes ENGINE's registers, the op trace and the record of overwritten bytes, or nothing (R151, R152). -/
theorem exec_go_cases (s : State) :
    (s.eng.ms.active = true ∧ exec .go s = .next s) ∨
    (s.eng.ms.active = false ∧ exec .go s = .next { s with eng := Engine.accept s.host, trace := [], stale := [] }) := by
  cases h : s.eng.ms.active <;> simp [exec, execGo, h]

/-- Everything a write of a register can do: a request register, GO, or nothing (R22 to R31). -/
theorem writeReg_cases {r : HostReg} {v : Word} {s u : State} (h : writeReg r v s = .next u) :
    (∃ h', u = s.withHost h') ∨ (r = .cmd ∧ exec .go s = .next u) ∨ u = s := by
  cases r <;> simp only [writeReg] at h
  case cmd =>
    unfold decodeHostCmd at h
    split_ifs at h with hv
    · exact .inr (.inl ⟨rfl, h⟩)
    · exact .inr (.inr (by cases h; rfl))
  case status => exact .inr (.inr (by cases h; rfl))
  case pushed => exact .inr (.inr (by cases h; rfl))
  all_goals exact .inl ⟨_, by cases h; rfl⟩

/-- Everything a HOST access can do (R21 to R31, R61): write a request register, issue GO, return a value, store to HOSTMEM,
or nothing. -/
theorem hostStep_cases {p : Params} {m : HostMove} {s u : State} (h : hostStep p m s = .next u) :
    (∃ h', u = s.withHost h') ∨ exec .go s = .next u ∨ (∃ v, u = { s with rdata := v }) ∨
    (∃ n a v, u = storeBytes p n a v s) ∨ u = s := by
  have hwr : ∀ {off width v}, hostWr off width v s = .next u →
      (∃ h', u = s.withHost h') ∨ exec .go s = .next u ∨ u = s := by
    intro off width v hw
    obtain ⟨-, r, -, hk⟩ := wordAccess_next hw
    rcases writeReg_cases hk with h | ⟨-, h⟩ | h
    · exact .inl h
    · exact .inr (.inl h)
    · exact .inr (.inr h)
  have hrd : ∀ {off width}, hostRd off width s = .next u → ∃ v, u = { s with rdata := v } := by
    intro off width hr
    obtain ⟨-, r, -, hk⟩ := wordAccess_next hr
    exact ⟨_, by cases hk; rfl⟩
  cases m with
  | wr off width v => rcases hwr h with h | h | h <;> tauto
  | rd off width => exact .inr (.inr (.inl (hrd h)))
  | store a width v =>
    simp only [hostStep, hostStore, routed] at h
    split_ifs at h with h1 h2
    · rcases hwr h with h | h | h <;> tauto
    · exact .inr (.inr (.inr (.inl ⟨_, _, _, by cases h; rfl⟩)))
  | load a width =>
    simp only [hostStep, hostLoad, routed] at h
    split_ifs at h with h1 h2
    · exact .inr (.inr (.inl (hrd h)))
    · exact .inr (.inr (.inl ⟨_, by cases h; rfl⟩))

end Sys2Proof.Machine
end

