-- ==== Sys2Proof/Tests/Slice0.lean ====
section
/-! SUPPORT. Tests: words, registers and steps with the results that spec/95_test_vectors.md gives (the section stands at each
test), ill-formed words and accesses that the model refuses, and for every statement with hypotheses a witness that meets them. -/

namespace Sys2Proof.Tests

open Sys2Proof.Machine

/-! ### States -/

/-- A block for tests: the bytes below 0x20001000 are admitted; a byte nothing has written reads as 0x40. -/
def blk : Params where
  engineBase := 0x50000000#32
  ctrlBase := 0x40005400#32
  nackReleasesBus := true
  emptyFinalSegment := .stop
  admits := fun a => decide (a < 0x20001000#32)
  ramAtPowerOn := fun _ => 0x40#8
  isrFree := fun _ => 0xFFFFFFFF#32
  txdrFree := fun _ => 0xFFFFFFFF#32
  saddFree := fun _ => 0b111#3
  environment := fun _ => .bus .ack
  engineAligned := by decide
  ctrlAligned := by decide
  apart := by decide

/-- The same block with the two bus parameters at their other values. -/
def held : Params := { blk with nackReleasesBus := false, emptyFinalSegment := .stall }

/-- CTRL in a phase, its flags as R41 says, with RELOAD = 1 and AUTOEND = 1 (95 section 2.2). -/
def inPhase (ph : Phase) (n : Byte) : Ctrl :=
  { Ctrl.reset with
    sadd7 := 0x3C#7, nbytes := n, autoend := true, reload := true, txdr := 0x04#8,
    txis := decide (ph = .awaitTx), tcr := decide (ph = .reloadWait), busy := decide (ph ≠ .free), phase := ph }

/-- A state with CTRL in a phase. -/
def atPhase (ph : Phase) (n : Byte) : State := { State.reset with ctl := inPhase ph n }

/-- ENGINE in a micro-state, in the request HL = 2, k = 10 of 95 section 3. -/
def engIn (ms : Micro) (seg : Byte) (rem pushed : Word) : Engine :=
  { Engine.reset with
    lAddr := 0x3C#7, lHp := 0x20000000#32, lHl := 2#32, lPp := 0x20000100#32, lPl := 10#32, seg := seg, rem := rem,
    pushed := pushed, ms := ms }

/-- A state with ENGINE and CTRL as given and one move waiting. -/
def running (e : Engine) (c : Ctrl) (m : Move) : State := { State.reset with eng := e, ctl := c, script := [m] }

/-- The next state's value of `f`, if there is one. -/
def after {α : Type} (r : Result) (f : State → α) : Option α := (nextOf r).map f

/-! ### Decoding (95 section 2.1) -/

/-- The words of 95 section 2.1 that configure. -/
theorem test_decode_setup :
    decodeOp 0x103C#16 = .instr (.setaddr 0x3C#7) ∧ decodeOp 0x1000#16 = .instr (.setaddr 0#7) ∧
    decodeOp 0x107F#16 = .instr (.setaddr 0x7F#7) ∧ decodeOp 0x2000#16 = .instr (.setdir false) ∧
    decodeOp 0x2001#16 = .instr (.setdir true) ∧ decodeOp 0x3000#16 = .instr (.setnbytes 0#8) ∧
    decodeOp 0x30FF#16 = .instr (.setnbytes 255#8) ∧ decodeOp 0x4001#16 = .instr (.setautoend true) ∧
    decodeOp 0x4000#16 = .instr (.setautoend false) ∧ decodeOp 0x5001#16 = .instr (.setreload true) ∧
    decodeOp 0x5000#16 = .instr (.setreload false) := by decide

/-- The words of 95 section 2.1 that start, poll, clear and push. -/
theorem test_decode_frame :
    decodeOp 0x6000#16 = .instr .start ∧ decodeOp 0x7000#16 = .instr .polltxis ∧
    decodeOp 0x8000#16 = .instr .polltcr ∧ decodeOp 0x9000#16 = .instr .pollnack ∧
    decodeOp 0xA000#16 = .instr .clrnack ∧ decodeOp 0xB000#16 = .instr .pollbusy ∧
    decodeOp 0xC000#16 = .instr (.push 0#8) ∧ decodeOp 0xC0FF#16 = .instr (.push 255#8) := by decide

/-- The host command words of 95 section 2.1. -/
theorem test_decode_hostCmd :
    decodeHostCmd 0x00000001#32 = .instr .go ∧ decodeHostCmd 0xFFFFFFFF#32 = .instr .go ∧
    decodeHostCmd 0x00000002#32 = .invalid .noCommand := by decide

/-- Encodings written out in R84, R87 and R157. -/
theorem test_encode :
    encodeOp (.setnbytes 255#8) = 0x30FF#16 ∧ encodeOp (.push 0x40#8) = 0xC040#16 ∧
    encodeOp (.setaddr 0x3C#7) = 0x103C#16 ∧ encodeOp (.setreload true) = 0x5001#16 ∧
    encode .go = .hostCmd 0x00000001#32 := by decide

/-- Well-formedness: each check refuses a word that breaks it (95 section 2.1; R84, R85). -/
theorem test_illFormed_words :
    [0x1080#16, 0x2002#16, 0x3100#16, 0x4002#16, 0x5002#16, 0x6001#16, 0x7001#16, 0x8800#16, 0x9001#16, 0xA010#16,
      0xB800#16, 0xC100#16].all (fun w => !legalOpWord w && decodeOp w == .invalid .strayBits) = true ∧
    [0x0000#16, 0xD000#16, 0xE123#16, 0xFFFF#16].all
      (fun w => !legalOpWord w && decodeOp w == .invalid .reservedOpc) = true ∧
    isGoWord 0x00000002#32 = false ∧ Instr.go.isOp = false := by decide

/-- Bytes of a wrong length are refused; an op word's low byte comes first (the model's choice, notes/assumptions/25.md). -/
theorem test_decode_bytes :
    decodeBytes [0x3C#8, 0x10#8] = .instr (.setaddr 0x3C#7) ∧ decodeBytes [0x01#8, 0#8, 0#8, 0#8] = .instr .go ∧
    decodeBytes [] = .invalid .badLength ∧ decodeBytes [0#8, 0x60#8, 0#8] = .invalid .badLength := by decide

/-- A table word through the decoder: an op word, GO, and an illegal word. -/
theorem test_decodeTableWord :
    decodeTableWord 16 0xC0FF = some (.push 255#8) ∧ decodeTableWord 8 1 = some .go ∧ decodeTableWord 32 1 = some .go ∧
    decodeTableWord 16 0xD000 = none := by decide

/-- A placed instruction is the very next step: SETADDR 0x3C from reset (R102's example), and GO. -/
theorem test_placed_instruction :
    after (step (State.reset.withFetchWord 16 0x103C)) (fun t => (t.ctl.sadd7, t.fault, t.script)) =
      some (0x3C#7, [], []) ∧
    after (step (State.reset.withFetchWord 8 1)) (fun t => t.eng.ms) = some .chkBusy := by decide

/-- A placed illegal word is refused as ILLEGAL_OP (R85, R216). -/
theorem test_placed_illegal : step (State.reset.withFetchWord 16 0x1080) = .refused (.illegalOp 0x1080#16) := rfl

/-! ### Ops (95 section 2.2) -/

/-- Row SETADDR. -/
theorem test_setaddr :
    after (exec (.setaddr 0x3C#7) (atPhase .free 3)) (fun t => (t.ctl.sadd7, t.ctl.phase, t.fault)) =
      some (0x3C#7, .free, []) ∧
    after (exec (.setaddr 0x15#7) (atPhase .addr 3)) (fun t => (t.ctl.sadd7, t.fault)) =
      some (0x3C#7, [.cfgWhileBusy]) := by decide

/-- Row SETDIR. -/
theorem test_setdir :
    after (exec (.setdir true) (atPhase .free 3)) (fun t => (t.ctl.rdWrn, t.fault)) = some (true, []) ∧
    after (exec (.setdir true) (atPhase .stopping 0)) (fun t => (t.ctl.rdWrn, t.fault)) =
      some (false, [.cfgWhileBusy]) := by decide

/-- Rows SETNBYTES 0 and SETNBYTES 5, and the example of R104. -/
theorem test_setnbytes :
    after (exec (.setnbytes 0#8) (atPhase .reloadWait 0)) (fun t => (t.ctl.phase, t.ctl.tcr, t.ctl.txis)) =
      some (.segEmpty, false, false) ∧
    after (exec (.setnbytes 5#8) (atPhase .reloadWait 0)) (fun t => (t.ctl.phase, t.ctl.tcr, t.ctl.txis)) =
      some (.awaitTx, false, true) ∧
    after (exec (.setnbytes 255#8) (atPhase .reloadWait 0)) (fun t => (t.ctl.nbytes, t.ctl.tcr, t.ctl.txis)) =
      some (255#8, false, true) := by decide

/-- Row SETNBYTES 5, the faults. -/
theorem test_setnbytes_faults :
    [Phase.addr, .awaitTx, .data].all (fun ph =>
      after (exec (.setnbytes 5#8) (atPhase ph 3)) (fun t => (t.ctl.nbytes, t.fault)) ==
        some (3#8, [.nbytesOpenSegment])) = true ∧
    [Phase.segEmpty, .stopping, .nackHold].all (fun ph =>
      after (exec (.setnbytes 5#8) (atPhase ph 0)) (fun t => (t.ctl.nbytes, t.fault)) ==
        some (0#8, [.nbytesNoSegment])) = true := by decide

/-- Row SETAUTOEND. -/
theorem test_setautoend :
    after (exec (.setautoend false) (atPhase .free 3)) (fun t => (t.ctl.autoend, t.fault)) = some (false, []) ∧
    after (exec (.setautoend true) (atPhase .data 3)) (fun t => t.fault) = some [.cfgWhileBusy] := by decide

/-- Rows SETRELOAD 0 and 1. -/
theorem test_setreload :
    after (exec (.setreload false) (atPhase .awaitTx 3)) (fun t => (t.ctl.reload, t.ctl.phase, t.fault)) =
      some (false, .awaitTx, []) ∧
    after (exec (.setreload false) (atPhase .reloadWait 0)) (fun t => (t.ctl.reload, t.fault)) =
      some (true, [.reloadClearedInTcr]) ∧
    after (exec (.setreload true) (atPhase .reloadWait 0)) (fun t => t.fault) = some [] := by decide

/-- Row START, and the vector FREE with RD_WRN = 1. A frame open and the read direction together report F_START_BUSY (R219). -/
theorem test_start :
    after (exec .start (atPhase .free 1)) (fun t => (t.ctl.busy, t.ctl.phase, t.wire, t.fault)) =
      some (true, .addr, [.start], []) ∧
    after (exec .start { State.reset with ctl := { Ctrl.reset with rdWrn := true } }) (fun t => (t.fault, t.wire)) =
      some ([.startRead], []) ∧
    after (exec .start { State.reset with ctl := { inPhase .stopping 0 with rdWrn := true } }) (fun t => t.fault) =
      some [.startBusy] := by decide

/-- The polls in AWAIT_TX, in RELOAD_WAIT and after reset. -/
theorem test_polls :
    after (exec .polltxis (atPhase .awaitTx 1)) (fun t => t.resp) = some (some true) ∧
    after (exec .polltcr (atPhase .awaitTx 1)) (fun t => t.resp) = some (some false) ∧
    after (exec .pollbusy (atPhase .awaitTx 1)) (fun t => t.resp) = some (some true) ∧
    after (exec .polltxis (atPhase .reloadWait 0)) (fun t => t.resp) = some (some false) ∧
    after (exec .polltcr (atPhase .reloadWait 0)) (fun t => t.resp) = some (some true) ∧
    [Instr.polltxis, .polltcr, .pollnack, .pollbusy].all
      (fun i => after (exec i State.reset) (fun t => t.resp) == some (some false)) = true := by decide

/-- NACKF = 1 in NACK_HOLD. -/
theorem test_clrnack :
    after (exec .clrnack { State.reset with ctl := { inPhase .nackHold 0 with nackf := true } })
      (fun t => (t.ctl.nackf, t.ctl.phase, t.ctl.busy)) = some (false, .nackHold, true) ∧
    after (exec .pollnack { State.reset with ctl := { inPhase .nackHold 0 with nackf := true } }) (fun t => t.resp) =
      some (some true) := by decide

/-- Row PUSH, and the vector AWAIT_TX with NBYTES = 1. -/
theorem test_push :
    after (exec (.push 0x55#8) (atPhase .awaitTx 3)) (fun t => (t.ctl.phase, t.ctl.txis, t.ctl.nbytes)) =
      some (.data, false, 2#8) ∧
    after (exec (.push 0x40#8) (atPhase .awaitTx 1)) (fun t => (t.ctl.txdr, t.ctl.txis, t.ctl.nbytes, t.ctl.phase)) =
      some (0x40#8, false, 0#8, .data) ∧
    after (exec (.push 0x55#8) (atPhase .data 3)) (fun t => (t.ctl.txdr, t.fault)) =
      some (0x04#8, [.pushNotReady]) := by decide

/-! ### BUS (95 section 2.3) -/

/-- The device's answers to the address. -/
theorem test_bus_addr :
    after (busStep blk .ack (atPhase .addr 2)) (fun t => (t.ctl.phase, t.ctl.txis, t.wire)) =
      some (.awaitTx, true, [.addr 0x3C#7 false .ack]) ∧
    after (busStep blk .ack (atPhase .addr 0)) (fun t => (t.ctl.phase, t.ctl.tcr)) = some (.reloadWait, true) ∧
    after (busStep blk .nack (atPhase .addr 2)) (fun t => (t.ctl.phase, t.ctl.nackf, t.ctl.txis, t.ctl.tcr, t.wire)) =
      some (.nackHold, true, false, false, [.addr 0x3C#7 false .nack]) := by decide

/-- The device's answers to a byte, with RELOAD = 0; AUTOEND = 0 faults. -/
theorem test_bus_data :
    after (busStep blk .ack { State.reset with ctl := { inPhase .data 0 with reload := false } })
      (fun t => (t.ctl.phase, t.wire)) = some (.stopping, [.data 0x04#8 .ack]) ∧
    after (busStep blk .ack { State.reset with ctl := { inPhase .data 0 with reload := false, autoend := false } })
      (fun t => (t.ctl.phase, t.fault)) = some (.data, [.autoendOff]) ∧
    after (busStep blk .nack (atPhase .data 1)) (fun t => (t.ctl.phase, t.ctl.nackf, t.wire)) =
      some (.nackHold, true, [.data 0x04#8 .nack]) := by decide

/-- The ends of frames under both values of the two parameters. -/
theorem test_bus_ends :
    after (busStep blk .ack (atPhase .stopping 0)) (fun t => (t.ctl.phase, t.ctl.busy, t.wire)) =
      some (.free, false, [.stop]) ∧
    after (busStep blk .ack { State.reset with ctl := { inPhase .nackHold 0 with nackf := true } })
      (fun t => (t.ctl.phase, t.ctl.busy, t.ctl.nackf, t.wire)) = some (.free, false, true, [.stop]) ∧
    busEnabled held (atPhase .nackHold 0) = false ∧
    after (busStep blk .ack { State.reset with ctl := { inPhase .segEmpty 0 with reload := false } })
      (fun t => t.ctl.phase) = some .stopping ∧
    busEnabled held { State.reset with ctl := { inPhase .segEmpty 0 with reload := false } } = false ∧
    busEnabled blk (atPhase .segEmpty 0) = false := by decide

/-! ### GO, ENGINE and STATUS (95 sections 2.4, 2.5) -/

/-- A state whose request has `n` header bytes and 1024 payload bytes. -/
def requesting (n : Word) : State :=
  { State.reset with
    host := { addr := 0x3C#7, hdrPtr := 0x20000000#32, hdrLen := n, payPtr := 0x20000100#32, payLen := 1024#32 } }

/-- GO: 255 is accepted; 256 and 0xFFFFFFFF are refused; the example of R151. -/
theorem test_go :
    after (exec .go (requesting 255#32)) (fun t => (t.eng.ms, readReg t .status)) = some (.chkBusy, 0x00000180#32) ∧
    after (exec .go (requesting 256#32)) (fun t => (t.eng.ms, readReg t .status, t.trace)) =
      some (.doneR, 0x00001455#32, []) ∧
    after (exec .go (requesting 0xFFFFFFFF#32)) (fun t => readReg t .status) = some 0x00001455#32 ∧
    after (exec .go (requesting 1#32)) (fun t => (t.eng.ms, t.eng.rem, t.eng.pushed)) =
      some (.chkBusy, 1024#32, 0#32) := by decide

/-- STATUS of each micro-state (95 section 2.5). -/
theorem test_status_words :
    [(Micro.idle, 0x000#32), (.chkBusy, 0x180#32), (.setAddr, 0x290#32), (.setDir, 0x390#32), (.setNbH, 0x490#32),
      (.setAe, 0x590#32), (.setRl, 0x690#32), (.start, 0x790#32), (.hNack, 0x890#32), (.hTx, 0x990#32),
      (.hPush, 0xA90#32), (.rpTcr, 0xBA0#32), (.pSetNb, 0xCA0#32), (.pClrRl, 0xDA0#32), (.pNack, 0xEB0#32),
      (.pTx, 0xFB0#32), (.pPush, 0x10B0#32)].all
      (fun x => statusWord (engIn x.1 0 0 0) == x.2) = true ∧
    statusWord { engIn .rjClrN 0 0 0 with cause := .nack } = 0x000011DC#32 ∧
    statusWord { engIn .rjClrRl 0 0 0 with cause := .nack } = 0x000012DC#32 ∧
    statusWord { engIn .doneC 0 0 0 with out := true } = 0x00001343#32 ∧
    statusWord { engIn .doneR 0 0 0 with cause := .nack } = 0x0000145D#32 ∧
    statusWord { engIn .doneR 0 0 0 with cause := .busBusy } = 0x00001459#32 := by decide

/-- Segment lengths (R188's corner cases, R194's worked values). -/
theorem test_segments :
    segmentLen 0#32 = 0#8 ∧ segmentLen 255#32 = 255#8 ∧ segmentLen 256#32 = 255#8 ∧ isFinal 255#32 = true ∧
    isFinal 256#32 = false ∧ segmentLengths 1024 = [255#8, 255#8, 255#8, 255#8, 4#8] ∧
    segmentLengths 300 = [255#8, 45#8] ∧ segmentLengths 0 = [0#8] := by decide

/-- The op counts of R198. -/
theorem test_opCount :
    opCount 1 1024 = 3093 ∧ opCount 0 300 = 912 ∧ opCount 2 10 = 46 ∧ opCount 0 0 = 10 := by decide

/-! ### HOST -/

/-- Registers take aligned 32-bit accesses at the block's offsets only (R21, R65); HOST has no CTRL move (R122). -/
theorem test_refused_accesses :
    hostStep blk (.wr 0x02 .word 1) State.reset = .refused (.badRegisterAccess 0x02 .word) ∧
    hostStep blk (.rd 0x18 .byte) State.reset = .refused (.badRegisterAccess 0x18 .byte) ∧
    hostStep blk (.rd 0x20 .word) State.reset = .refused (.noSuchRegister 0x20) ∧
    hostStep blk (.store 0x50000004#32 .half 1) State.reset = .refused (.badRegisterAccess 4 .half) ∧
    hostStep blk (.load 0x40005404#32 .word) State.reset = .refused (.hostTouchesCtrl 0x40005404#32) :=
  ⟨rfl, rfl, rfl, rfl, rfl⟩

/-- ADDR keeps its low 7 bits and reads 0 above them (R22); a store by address reaches the same register (R61). -/
theorem test_addr_register :
    after (hostStep blk (.wr 0x00 .word 0xFFFFFFFF) State.reset) (fun t => readReg t .addr) = some 0x0000007F#32 ∧
    after (hostStep blk (.store 0x50000004#32 .word 0x20000000) State.reset) (fun t => t.host.hdrPtr) =
      some 0x20000000#32 := by decide

/-- Words are little-endian (R64), and addresses wrap (R73). -/
theorem test_hostmem :
    after (hostStep blk (.store 0xFFFFFFFE#32 .word 0x44332211) State.reset) (fun t => t.mem) =
      some [(0, 0x33#8), (1, 0x44#8), (0xFFFFFFFE, 0x11#8), (0xFFFFFFFF, 0x22#8)] ∧
    after (hostStep blk (.load 0x20000000#32 .half) { State.reset with mem := [(0x20000001, 0x12#8)] })
      (fun t => t.rdata) = some 0x1240#64 := by decide

/-- A buffer over a register block is refused, and a byte not admitted leaves ENGINE stuck (R67, R68). -/
theorem test_bad_buffers :
    engineStep blk 0 { atPhase .awaitTx 1 with eng := { engIn .hPush 1 0 0 with lHp := 0x50000000#32 } } =
      .refused .bufferOverlapsRegisters ∧
    after (engineStep blk 0 { atPhase .awaitTx 1 with eng := { engIn .hPush 1 0 0 with lHp := 0x20001000#32 } })
      (fun t => (t.eng.ms, t.trace)) = some (.hPush, []) :=
  ⟨rfl, rfl⟩

/-- CR2 and ISR (R37, R38): a START in progress, and the flags under free bits of either value. -/
theorem test_ctrl_words :
    cr2Word (inPhase .addr 255#8) = 0x03FF2078#32 ∧
    isrWord 0x00000000#32 (inPhase .awaitTx 1) = 0x00008002#32 ∧
    isrWord 0xFFFFFFFF#32 Ctrl.reset = 0xFFFF7F6D#32 := by decide

/-- The registers stand at 0x04, 0x18, 0x1C and 0x28 from CTRL_BASE (R37 to R40); each register of the block takes aligned 32-bit
accesses (R65), an ICR bit other than NACKCF takes no 1 (R39), and the spec names no register at 0x00. -/
theorem test_ctrl_offsets :
    after (ctrlAccess blk (.rd 0x40005404#32 .word) (atPhase .addr 255#8)) (fun t => t.rdata) = some 0x03FF2078#64 ∧
    after (ctrlAccess blk (.rd 0x40005418#32 .word) State.reset) (fun t => t.rdata) = some 0xFFFF7F6D#64 ∧
    after (ctrlAccess blk (.wr 0x40005428#32 .word 0x55#64) (atPhase .awaitTx 3)) (fun t => (t.ctl.txdr, t.ctl.phase)) =
      some (0x55#8, .data) ∧
    ctrlAccess blk (.wr 0x4000541C#32 .word 0x11#64) State.reset = .refused (.icrUnmodelledBit 0x11#32) ∧
    ctrlAccess blk (.wr 0x40005404#32 .half 0#64) State.reset = .refused (.badRegisterAccess 4 .half) ∧
    ctrlAccess blk (.rd 0x40005400#32 .word) State.reset = .refused (.noSuchRegister 0) :=
  ⟨by decide, by decide, by decide, rfl, rfl, rfl⟩

/-- A write of SADD with bits outside SADD[7:1] runs as SETADDR (R37, R89), and those bits alone are a free value, here all ones; in
an open frame it raises SETADDR's fault. -/
theorem test_sadd_stray_bits :
    after (ctrlAccess blk (.update (.sadd 0b1001111001#10)) (atPhase .free 3)) (fun t => (t.ctl.sadd7, t.fault, cr2Word t.ctl)) =
      some (0x3C#7, [], 0x03030379#32) ∧
    after (ctrlAccess blk (.update (.sadd 0b1001111001#10)) (atPhase .data 3)) (fun t => (t.ctl.saddRest, t.fault)) =
      some (0#3, [.cfgWhileBusy]) := by decide

/-- A word written to CR2 (notes/assumptions/28.md, the model's choice) configures and starts a frame: BEGIN 0x3C, 2 (R88) with
the layout of R37. In an open frame the word that changes RELOAD and RD_WRN raises one fault and changes nothing. -/
theorem test_cr2_whole_word :
    after (ctrlAccess blk (.wr 0x40005404#32 .word 0x03022078#64) State.reset)
      (fun t => (t.ctl.sadd7, t.ctl.nbytes, t.ctl.autoend, t.ctl.reload)) = some (0x3C#7, 2#8, true, true) ∧
    after (ctrlAccess blk (.wr 0x40005404#32 .word 0x03022078#64) State.reset) (fun t => (t.ctl.phase, t.wire)) =
      some (.addr, [.start]) ∧
    after (ctrlAccess blk (.wr 0x40005404#32 .word 0x02030478#64) (atPhase .data 3))
      (fun t => (t.ctl.rdWrn, t.ctl.reload, t.fault)) = some (false, true, [.cfgWhileBusy]) := by decide

/-- The placements of ENGINE's block beside CTRL's page at 0x40005400 (R67): the last block before it, the first after CTRL's two,
and the last of the address space. -/
theorem test_placements :
    engineBaseAt 0x100015#22 33555103 = 0x400053E0#32 ∧ engineBaseAt 0x100015#22 33555104 = 0x40005440#32 ∧
    engineBaseAt 0x100015#22 134217725 = 0xFFFFFFE0#32 ∧
    arcsMeet 0x400053E0#32 engineBlockBytes 0x40005400#32 ctrlBlockBytes = false ∧
    arcsMeet 0x40005420#32 engineBlockBytes 0x40005400#32 ctrlBlockBytes = true := by decide

/-! ### Trace syntax (R87, R88) -/

/-- Lines of the trace syntax. -/
theorem test_traceLine :
    traceLine (.setnbytes 255#8) none = "SETNBYTES 255" ∧ traceLine .polltxis (some true) = "POLLTXIS -> 1" ∧
    wrLine .cmd 1#32 = "WR H.CMD, 1" ∧ rdLine .pushed 7#32 = "RD H.PUSHED -> 7" := by decide

/-- A SENDBYTE with one poll that finds nothing (R88). -/
theorem test_sendByte :
    sendByte 0x40#8 [polled .pollnack false, polled .polltxis false, polled .pollnack false, polled .polltxis true,
      quiet (.push 0x40#8), polled .polltcr true] = some (.ready, [polled .polltcr true]) := by decide

/-! ### Witnesses: a concrete state and operands that meet the hypotheses of each statement, clause by clause -/

/-- The moves that hand an op word to CTRL and a GO to ENGINE. -/
def goMove : Move := .block (.host (.wr 0x14 .word ((0xFFFFFFFF#32).setWidth 64)))

/-- The block of tests, with an environment that resets it. -/
def resetting : Params := { blk with environment := fun _ => .reset }

theorem witness_ResetRestoresEngineAndController :
    (running (engIn .rpTcr 0 10 2) (inPhase .nackHold 0) (.block .reset)).fault = [] ∧
    nextMove blk (running (engIn .rpTcr 0 10 2) (inPhase .nackHold 0) (.block .reset)) = .block .reset ∧
    (atPhase .nackHold 0).fault = [] ∧ nextMove resetting (atPhase .nackHold 0) = .block .reset := by decide

theorem witness_DecodeEncodeRoundTrip : Instr.start.isOp = true ∧ Instr.go.isOp = false := by decide

theorem witness_DecoderAcceptsExactlyTheLegalWords :
    decodeOp 0x107F#16 = .instr (.setaddr 0x7F#7) ∧
    opcOf 0x0000#16 = 0x0#4 ∧ opcOf 0xD000#16 = 0xD#4 ∧ opcOf 0xE123#16 = 0xE#4 ∧ opcOf 0xFFFF#16 = 0xF#4 := by decide

theorem witness_HostCommandWordIssuesGo :
    (0xFFFFFFFF#32).getLsbD 0 = true ∧ (0xFFFFFFFE#32).getLsbD 0 = false := by decide

theorem witness_StepRunsTheDecodedInstruction :
    State.reset.fault = [] ∧
    nextMove Config.params (running Engine.reset Ctrl.reset (.opWord 0x6000#16)) = .opWord 0x6000#16 ∧
    decodeOp 0x6000#16 = .instr .start ∧
    nextMove Config.params (running Engine.reset Ctrl.reset (.opWord 0x6001#16)) = .opWord 0x6001#16 ∧
    legalOpWord 0x6001#16 = false ∧
    nextMove Config.params (running Engine.reset Ctrl.reset goMove) =
      .block (.host (.wr 0x14 .word ((0xFFFFFFFF#32).setWidth 64))) ∧
    (0xFFFFFFFF#32).getLsbD 0 = true :=
  ⟨rfl, rfl, by decide, rfl, by decide, rfl, by decide⟩

theorem witness_StepRunsTheBlocksAgents :
    (running (engIn .hTx 2 10 0) (inPhase .addr 2) (.block (.engine 3))).fault = [] ∧
    (running (engIn .hTx 2 10 0) (inPhase .addr 2) (.block (.engine 3))).script = .block (.engine 3) :: [] ∧
    State.reset.script = [] ∧
    nextMove Config.params (running (engIn .hTx 2 10 0) (inPhase .addr 2) (.block (.engine 3))) = .block (.engine 3) ∧
    nextMove Config.params (running (engIn .hTx 2 10 0) (inPhase .addr 2) (.block (.bus .nack))) = .block (.bus .nack) ∧
    nextMove Config.params (running Engine.reset Ctrl.reset (.block (.host (.rd 0x18 .word)))) =
      .block (.host (.rd 0x18 .word)) ∧
    nextMove Config.params (running Engine.reset Ctrl.reset (.block .reset)) = .block .reset ∧
    nextMove Config.params (running Engine.reset Ctrl.reset (.ctrlAccess (.update .start))) = .ctrlAccess (.update .start) :=
  ⟨rfl, rfl, rfl, rfl, rfl, rfl, rfl, rfl⟩

theorem witness_FaultsAreStickyAndChangeNothingElse :
    after (advance blk (running Engine.reset Ctrl.reset (.opWord 0xC055#16))) (fun t => t.fault) =
      some [.pushNotReady] ∧
    ({ State.reset with fault := [.pushNotReady] } : State).fault ≠ [] := by decide

theorem witness_SetaddrEffect :
    (atPhase .free 0).ctl.phase = .free ∧ (atPhase .nackHold 0).ctl.phase ≠ .free ∧
    (atPhase .nackHold 0).fault = [] := by decide

theorem witness_SetdirEffect :
    ({ State.reset with ctl := { Ctrl.reset with rdWrn := true } } : State).ctl.phase = .free ∧
    ({ State.reset with ctl := { Ctrl.reset with rdWrn := true } } : State).fault = [] ∧
    ({ State.reset with ctl := { Ctrl.reset with rdWrn := true } } : State).ctl.rdWrn = true ∧
    (atPhase .addr 2).ctl.phase ≠ .free ∧ (atPhase .addr 2).fault = [] := by decide

theorem witness_SetnbytesEffect :
    (atPhase .free 0).ctl.phase = .free ∧ (atPhase .reloadWait 0).ctl.phase = .reloadWait ∧ (1#8 : Byte) ≠ 0#8 ∧
    (255#8 : Byte) ≠ 0#8 ∧ (atPhase .addr 2).ctl.phase = .addr ∧ (atPhase .awaitTx 2).ctl.phase = .awaitTx ∧
    (atPhase .data 2).ctl.phase = .data ∧ (atPhase .segEmpty 0).ctl.phase = .segEmpty ∧
    (atPhase .stopping 0).ctl.phase = .stopping ∧ (atPhase .nackHold 0).ctl.phase = .nackHold ∧
    ∀ ph n, (atPhase ph n).fault = [] := ⟨rfl, rfl, by decide, by decide, rfl, rfl, rfl, rfl, rfl, rfl, fun _ _ => rfl⟩

theorem witness_SetautoendEffect :
    (atPhase .free 0).ctl.phase = .free ∧ (atPhase .data 2).ctl.phase ≠ .free ∧ (atPhase .data 2).fault = [] ∧
    (atPhase .data 1).ctl.nbytes ≠ 0#8 ∧ (atPhase .data 0).ctl.reload = true ∧ Ctrl.reset.nbytes = 0#8 ∧
    Ctrl.reset.reload = false := by decide

theorem witness_SetreloadEffect :
    (atPhase .awaitTx 2).ctl.phase ≠ .reloadWait ∧ (atPhase .reloadWait 0).ctl.phase = .reloadWait ∧
    (atPhase .reloadWait 0).fault = [] := by decide

theorem witness_StartEffect :
    (atPhase .free 1).ctl.phase = .free ∧ (atPhase .free 1).ctl.rdWrn = false ∧
    (atPhase .stopping 0).ctl.phase ≠ .free ∧ (atPhase .stopping 0).fault = [] ∧
    ({ State.reset with ctl := { Ctrl.reset with rdWrn := true } } : State).ctl.phase = .free ∧
    ({ State.reset with ctl := { Ctrl.reset with rdWrn := true } } : State).ctl.rdWrn = true ∧
    ({ State.reset with ctl := { Ctrl.reset with rdWrn := true } } : State).fault = [] := by decide

/-- Every phase with the flags of R41 is consistent. -/
theorem inPhase_consistent (ph : Phase) : (inPhase ph 2).Consistent := by
  cases ph <;> constructor <;> decide

theorem witness_PollsAnswerTheirFlags : (atPhase .awaitTx 2).ctl.Consistent := inPhase_consistent _

theorem witness_PushEffect :
    (atPhase .awaitTx 1).ctl.txis = true ∧ (atPhase .data 1).ctl.txis = false ∧ (atPhase .data 1).fault = [] := by decide

theorem witness_EveryOpCompletesInOneStep :
    (Instr.push 0x55#8).isOp = true ∧ (atPhase .awaitTx 1).fault = [] ∧
    after (exec (.push 0x55#8) (atPhase .awaitTx 1)) (fun t => t.fault) = some [] ∧
    Instr.push 0x55#8 ≠ .polltxis ∧ Instr.push 0x55#8 ≠ .polltcr ∧ Instr.push 0x55#8 ≠ .pollnack ∧
    Instr.push 0x55#8 ≠ .pollbusy := by decide

theorem witness_OpsChangeOnlyTheirRegisters :
    (Instr.setnbytes 5#8).isOp = true ∧ (atPhase .reloadWait 0).fault = [] ∧
    (∃ t, exec (.setnbytes 5#8) (atPhase .reloadWait 0) = .next t) ∧
    after (exec (.setnbytes 5#8) (atPhase .addr 2)) (fun t => t.fault) = some [.nbytesOpenSegment] :=
  ⟨rfl, rfl, ⟨_, rfl⟩, by decide⟩

theorem witness_GoStartsARequest :
    (requesting 255#32).eng.ms = .idle ∧ (requesting 256#32).eng.ms = .idle ∧
    ({ requesting 255#32 with eng := engIn .doneC 0 0 12 } : State).eng.ms = .doneC ∧
    ({ requesting 256#32 with eng := engIn .doneR 0 0 0 } : State).eng.ms = .doneR ∧
    (readReg (running (engIn .pPush 1 1 11) (inPhase .awaitTx 1) goMove) .status).getLsbD 7 = true := by decide

theorem witness_LongHeaderIsRejectedAtGo :
    (requesting 256#32).eng.ms.active = false ∧ 255 < (requesting 256#32).host.hdrLen.toNat := by decide

theorem witness_DeviceAnswersTheLastByte :
    (atPhase .addr 2).ctl.phase = .addr ∧ (atPhase .data 0).ctl.phase = .data ∧
    (∃ c, (atPhase .addr 2).ctl.afterAck = some c) ∧ ∃ c, (atPhase .data 0).ctl.afterAck = some c :=
  ⟨rfl, rfl, ⟨_, rfl⟩, ⟨_, rfl⟩⟩

theorem witness_EndOfByteProcedure :
    (atPhase .data 1).ctl.nbytes ≠ 0#8 ∧ (atPhase .data 0).ctl.nbytes = 0#8 ∧ (atPhase .data 0).ctl.reload = true ∧
    { inPhase .data 0 with reload := false }.nbytes = 0#8 ∧ { inPhase .data 0 with reload := false }.autoend = true ∧
    { inPhase .data 0 with reload := false }.reload = false ∧
    { inPhase .data 0 with reload := false, autoend := false }.autoend = false ∧
    { inPhase .data 0 with reload := false, autoend := false }.phase = .data ∧
    { inPhase .addr 0 with reload := false, autoend := false }.phase = .addr ∧ State.reset.fault = [] := by decide

theorem witness_BusEndsSegmentsAndFrames :
    (atPhase .stopping 0).ctl.phase = .stopping ∧ { inPhase .segEmpty 0 with reload := false }.phase = .segEmpty ∧
    { inPhase .segEmpty 0 with reload := false }.reload = false ∧ blk.emptyFinalSegment = .stop ∧
    (atPhase .nackHold 0).ctl.phase = .nackHold ∧ blk.nackReleasesBus = true := by decide

/-- A state in the header stream with the address answered and one ENGINE move waiting. -/
def mid : State :=
  { running (engIn .hTx 2 10 0) (inPhase .awaitTx 2) (.block (.engine 0)) with
    wire := [.start, .addr 0x3C#7 false .ack] }

theorem mid_sound : mid.Sound where
  noFault := rfl
  closed := by intro m hm; simp [mid, running] at hm; subst hm; rfl
  ctrl := inPhase_consistent _
  engine := ⟨by decide, fun _ => by decide, by simp [mid, running, engIn, Engine.countedIn, Engine.undecided, Engine.inHeader]; decide⟩
  link := ⟨by decide, by decide, by simp [mid, running, engIn, linkedIn, Ctrl.inSegment, inPhase]⟩

theorem witness_EngineLeavesEnabledBusSteps :
    ({ mid with ctl := inPhase .addr 2 } : State).Sound ∧ busEnabled blk { mid with ctl := inPhase .addr 2 } = true ∧
    ∃ t, engineStep blk 0 { mid with ctl := inPhase .addr 2 } = .next t :=
  ⟨{ noFault := rfl
     closed := mid_sound.closed
     ctrl := inPhase_consistent _
     engine := mid_sound.engine
     link := ⟨by decide, by decide, by simp [mid, running, engIn, linkedIn, Ctrl.inSegment, inPhase]⟩ }, by decide, ⟨_, rfl⟩⟩

theorem witness_EngineChecksTheBusIsIdle :
    (engIn .chkBusy 0 10 0).Counted ∧ (engIn .chkBusy 0 10 0).ms = .chkBusy ∧ Ctrl.reset.busy = false ∧
    (inPhase .stopping 0).busy = true ∧ State.reset.fault = [] :=
  ⟨⟨by decide, fun _ => by decide, by simp [engIn, Engine.countedIn, Engine.undecided, Engine.reset]⟩, rfl, rfl, rfl, rfl⟩

theorem witness_EngineProgramsTheController :
    State.reset.fault = [] ∧ (atPhase .free 0).ctl.phase = .free ∧ (engIn .setAddr 0 10 0).ms = .setAddr ∧
    (engIn .setDir 0 10 0).ms = .setDir ∧ (engIn .setNbH 0 10 0).ms = .setNbH ∧ (engIn .setAe 2 10 0).ms = .setAe ∧
    (engIn .setRl 2 10 0).ms = .setRl := by decide

theorem witness_EngineStartsTheFrame :
    (running (engIn .start 2 10 0) (inPhase .free 2) (.block (.engine 0))).fault = [] ∧
    (engIn .start 2 10 0).ms = .start ∧ (engIn .start 0 10 0).seg = 0#8 ∧ (inPhase .free 2).phase = .free ∧
    (inPhase .free 2).rdWrn = false := by decide

theorem witness_EngineWaitsForFlags :
    State.reset.fault = [] ∧ (engIn .hNack 2 10 0).ms = .hNack ∧ (engIn .pNack 1 1 11).ms = .pNack ∧
    { inPhase .nackHold 0 with nackf := true }.nackf = true ∧ (inPhase .awaitTx 2).nackf = false ∧
    (engIn .hTx 2 10 0).ms = .hTx ∧ (engIn .pTx 1 1 11).ms = .pTx ∧ (engIn .rpTcr 0 10 2).ms = .rpTcr := by decide

theorem witness_BufferReadsReturnMemoryOrADraw :
    overlapsRegisters blk 0x20000000#32 (2#32).toNat = false ∧ blk.admits (0x20000000#32 + 1#32) = true ∧
    mid.stale = [] ∧ mid.owns (0x20000000#32 + 1#32) = true ∧ 0x20000000#32 + 0#32 ≠ 0x20000000#32 + 1#32 ∧
    blk.admits (0x20000000#32 + 0#32) = true := by decide

theorem witness_EnginePushesAHeaderByte :
    State.reset.fault = [] ∧ (engIn .hPush 1 10 1).ms = .hPush ∧ (inPhase .awaitTx 1).txis = true ∧
    memRead blk 0 State.reset 0x20000000#32 2#32 (2#32 - (1#8).setWidth 32) = .byte 0x40#8 := by decide

theorem witness_EnginePushesAPayloadByte :
    State.reset.fault = [] ∧ (engIn .pPush 1 1 11).ms = .pPush ∧ (inPhase .awaitTx 1).txis = true ∧
    memRead blk 0 State.reset 0x20000100#32 10#32 (10#32 - 1#32) = .byte 0x40#8 := by decide

theorem witness_UnadmittedReadLeavesEngineStuck :
    (engIn .hPush 1 10 1).ms = .hPush ∧ overlapsRegisters blk 0x20001000#32 (2#32).toNat = false ∧
    blk.admits (0x20001000#32 + (2#32 - (1#8).setWidth 32)) = false ∧ (engIn .pPush 1 1 11).ms = .pPush ∧
    overlapsRegisters blk 0x20000FF7#32 (10#32).toNat = false ∧ blk.admits (0x20000FF7#32 + (10#32 - 1#32)) = false ∧
    touchesEngine blk 0x4FFFFFFF#32 (2#32).toNat ∧ touchesCtrl blk 0x4000542B#32 (10#32).toNat :=
  ⟨rfl, by decide, by decide, rfl, by decide, by decide, ⟨1, by decide⟩, ⟨0, by decide⟩⟩

theorem witness_EngineProgramsAPayloadSegment :
    State.reset.fault = [] ∧ (engIn .pSetNb 0 0 2).ms = .pSetNb ∧ (engIn .pSetNb 0 255 2).rem = 255#32 ∧
    (engIn .pSetNb 0 256 2).rem = 256#32 ∧ (inPhase .reloadWait 0).phase = .reloadWait ∧
    (engIn .pClrRl 0 0 2).ms = .pClrRl ∧ (inPhase .segEmpty 0).phase ≠ .reloadWait ∧
    (inPhase .awaitTx 1).phase ≠ .reloadWait := by decide

theorem witness_EngineAbandonsARejectedRequest :
    State.reset.fault = [] ∧ (engIn .rjClrN 1 10 1).ms = .rjClrN ∧ (engIn .rjClrRl 1 10 1).ms = .rjClrRl ∧
    (inPhase .nackHold 0).phase ≠ .reloadWait ∧ { engIn .rjClrRl 1 10 1 with cause := .nack }.Counted :=
  ⟨rfl, rfl, rfl, by decide, ⟨by decide, fun _ => by decide, rfl, rfl⟩⟩

theorem witness_EnabledEngineStepIssuesOneOp :
    (engIn .doneC 0 0 12).ms.active = false ∧ mid.Sound ∧ engineEnabled blk mid = true :=
  ⟨rfl, mid_sound, rfl⟩

theorem witness_EngineFollowsTheSourceStates : ∃ t, engineStep blk 0 mid = .next t := ⟨_, rfl⟩

theorem witness_HostReadsTheRegisters : 0x1C < 0x20 ∧ 0x1C % 4 = 0 := by decide

theorem witness_HostWritesTakeEffectAtOnce :
    (readReg mid .status).getLsbD 7 = true ∧ 0x1C < 0x20 ∧ 0x1C % 4 = 0 := by decide

theorem witness_BadRegisterAccessIsRefused :
    Width.byte ≠ .word ∧ Width.dword ≠ .word ∧ 0x02 % 4 ≠ 0 ∧ 0x20 % 4 = 0 ∧ 0x20 ≤ 0x20 ∧
    touchesEngine blk 0x4FFFFFFE#32 (bytesOf .word) ∧ ¬ touchesCtrl blk 0x4FFFFFFE#32 (bytesOf .word) ∧
    (0x4FFFFFFE#32).toNat % 4 ≠ 0 ∧ touchesEngine blk 0x5000001C#32 (bytesOf .dword) ∧
    ¬ touchesCtrl blk 0x5000001C#32 (bytesOf .dword) ∧ (0x40005400#32).toNat % 4 = 0 ∧
    [0x04#32, 0x18#32, 0x1C#32, 0x28#32].all (fun o => 0x40005400#32 != blk.ctrlBase + o) = true :=
  ⟨by decide, by decide, by decide, by decide, by decide, ⟨2, by decide⟩, by unfold touchesCtrl; decide, by decide,
    ⟨0, by decide⟩, by unfold touchesCtrl; decide, by decide, by decide⟩

theorem witness_HostStoreWritesItsBytes :
    overlapsRegisters blk 0xFFFFFFFE#32 (bytesOf .dword) = false ∧
    overlapsRegisters blk 0x50000020#32 (bytesOf .word) = false ∧
    overlapsRegisters blk 0x4FFFFFFF#32 (bytesOf .byte) = false := by decide

theorem witness_HostNeverTouchesTheController :
    (∃ t, hostStep blk (.store 0x20000000#32 .byte 1) mid = .next t) ∧ touchesCtrl blk 0x400053FF#32 (bytesOf .half) ∧
    touchesCtrl blk 0x4000542B#32 (bytesOf .byte) ∧ ¬ touchesCtrl blk 0x4000542C#32 (bytesOf .dword) :=
  ⟨⟨_, rfl⟩, ⟨1, by decide⟩, ⟨0, by decide⟩, by unfold touchesCtrl; decide⟩

theorem witness_ControllerRegisterLayout :
    (atPhase .free 0).ctl.phase = .free ∧ (∃ t, exec (.setaddr 0x7F#7) (atPhase .free 0) = .next t) ∧
    (atPhase .addr 2).fault = [] ∧ (atPhase .addr 2).ctl.phase = .addr ∧
    (∃ t, ctrlAccess blk (.wr (blk.ctrlBase + 0x18#32) .word 0xFFFFFFFF#64) (atPhase .awaitTx 2) = .next t) ∧
    0x80000000#32 &&& 0xFFFFFFEF#32 ≠ 0#32 ∧ 0x00000011#32 &&& 0xFFFFFFEF#32 ≠ 0#32 ∧
    (Instr.push 0x55#8).isOp = true ∧ ∃ t, exec (.push 0x55#8) (atPhase .awaitTx 2) = .next t :=
  ⟨rfl, ⟨_, rfl⟩, rfl, rfl, ⟨_, rfl⟩, by decide, by decide, rfl, ⟨_, rfl⟩⟩

theorem witness_OpsAreRegisterAccesses :
    (atPhase .free 0).ctl.phase = .free ∧ (∃ t, exec (.setaddr 0x7F#7) (atPhase .free 0) = .next t) ∧
    (∃ t, exec (.setdir true) (atPhase .free 0) = .next t) ∧ (∃ t, exec (.setnbytes 255#8) (atPhase .free 0) = .next t) ∧
    (∃ t, exec (.setreload false) (atPhase .free 0) = .next t) ∧
    ∃ t, exec (.setautoend false) (atPhase .free 0) = .next t :=
  ⟨rfl, ⟨_, rfl⟩, ⟨_, rfl⟩, ⟨_, rfl⟩, ⟨_, rfl⟩, ⟨_, rfl⟩⟩

theorem witness_ControllerStaysConsistent : mid.ctl.Consistent ∧ ∃ t, step mid = .next t :=
  ⟨mid_sound.ctrl, ⟨_, rfl⟩⟩

theorem witness_WireStaysFramed : mid.ctl.Consistent ∧ mid.wireFramed ∧ ∃ t, step mid = .next t :=
  ⟨mid_sound.ctrl, by unfold State.wireFramed; decide, ⟨_, rfl⟩⟩

theorem witness_BlockStaysSound : mid.Sound ∧ ∃ t, step mid = .next t := ⟨mid_sound, ⟨_, rfl⟩⟩

theorem witness_MemoryStaysCanonical :
    Memory.wf [(0x20000000, 0xA0#8), (0xFFFFFFFF, 1#8)] ∧
    ∃ t, step { mid with mem := [(0x20000000, 0xA0#8), (0xFFFFFFFF, 1#8)] } = .next t := ⟨by decide, ⟨_, rfl⟩⟩

theorem witness_PushedStaysTheNumberOfPushes : mid.Sound ∧ mid.pushesCounted ∧ ∃ t, step mid = .next t :=
  ⟨mid_sound, by unfold State.pushesCounted; decide, ⟨_, rfl⟩⟩

/-- The last byte of the payload is about to be pushed; the twelve bytes before it and itself all read as 0x40. -/
def lastPush : State :=
  { mid with
    eng := engIn .pPush 1 1 11, ctl := { inPhase .awaitTx 1 with reload := false },
    trace := List.replicate 11 (quiet (.push 0x40#8)) }

theorem lastPush_sound : lastPush.Sound where
  noFault := rfl
  closed := mid_sound.closed
  ctrl := by constructor <;> decide
  engine := ⟨by decide, fun _ => by decide, by simp [lastPush, engIn, Engine.countedIn, Engine.undecided, Engine.inPayload, Engine.reset]⟩
  link := ⟨by decide, by decide, by simp [lastPush, engIn, linkedIn, inPhase]⟩

theorem witness_BytesAreSentInOrder :
    lastPush.Sound ∧ lastPush.bytesInOrder blk ∧ lastPush.eng.ms.active = true ∧
    after (advance blk lastPush) (fun t => (t.eng.ms, t.stale)) = some (.doneC, []) :=
  ⟨lastPush_sound, fun _ _ => by decide, rfl, by decide⟩

theorem witness_RejectionFlagIsClearedOnce : mid.Sound ∧ mid.clearedOnce ∧ ∃ t, step mid = .next t :=
  ⟨mid_sound, by unfold State.clearedOnce; decide, ⟨_, rfl⟩⟩

theorem witness_OnlyADeviceNackSetsTheRejectionFlag :
    (running (engIn .hTx 2 10 0) (inPhase .addr 2) (.block (.bus .nack))).ctl.nackf = false ∧
    after (advance blk (running (engIn .hTx 2 10 0) (inPhase .addr 2) (.block (.bus .nack)))) (fun t => t.ctl.nackf) =
      some true := by decide

theorem witness_NoReadyFlagAfterANack :
    (inPhase .nackHold 2).Consistent ∧
    ∃ t, advance blk (running (engIn .hTx 2 10 0) (inPhase .nackHold 2) (.block (.bus .ack))) = .next t :=
  ⟨inPhase_consistent _, ⟨_, rfl⟩⟩

/-- ENGINE in the reload wait after the last header byte was refused (95 section 3, HL = 2, k = 10, slot 2). -/
def hungState : State := running (engIn .rpTcr 0 10 2) { inPhase .nackHold 2 with nackf := true } (.block (.engine 0))

theorem witness_RejectionAtAReloadWaitHangs :
    hungState.Hung ∧ (∃ t, advance blk hungState = .next t) ∧ nextMove blk hungState ≠ .block .reset :=
  ⟨⟨rfl, by intro m hm; simp [hungState, running] at hm; subst hm; rfl, by constructor <;> decide, rfl, .inl rfl⟩,
    ⟨_, rfl⟩, by decide⟩

theorem witness_HeldBusStaysBusyUntilReset :
    (inPhase .nackHold 2).Consistent ∧ (inPhase .segEmpty 2).Consistent ∧ held.nackReleasesBus = false ∧
    held.emptyFinalSegment = .stall ∧
    (∃ t, advance held (running Engine.reset (inPhase .nackHold 2) (.block (.bus .ack))) = .next t) ∧
    (∃ t, advance held (running Engine.reset (inPhase .segEmpty 2) (.block (.bus .ack))) = .next t) ∧
    nextMove held (running Engine.reset (inPhase .nackHold 2) (.block (.bus .ack))) ≠ .block .reset :=
  ⟨inPhase_consistent _, inPhase_consistent _, rfl, rfl, ⟨_, rfl⟩, ⟨_, rfl⟩, by decide⟩

/-- A run of `blk` in which BUS moves at every step: the auto-stop, then nothing more. -/
def stopRun : Nat → State
  | 0 => atPhase .stopping 0
  | n + 1 => { State.reset with ctl := { inPhase .stopping 0 with busy := false, phase := .free }, wire := [.stop], tick := n + 1 }

theorem witness_AutoStopComesInFairRuns :
    IsRun blk stopRun ∧ WeaklyFair blk stopRun ∧ (stopRun 0).ctl.Consistent ∧ (stopRun 0).ctl.phase = .stopping :=
  ⟨fun n => by cases n <;> rfl, fun n => ⟨n, Nat.le_refl n, .inr (by cases n <;> rfl)⟩, by constructor <;> decide, rfl⟩

/-- A request with one header byte and two payload bytes. -/
def shortRequest : State :=
  { State.reset with
    host := { addr := 0x3C#7, hdrPtr := 0x20000000#32, hdrLen := 1#32, payPtr := 0x20000100#32, payLen := 2#32 } }

theorem witness_RequestCompletesUnderTheEagerSchedule :
    shortRequest.fault = [] ∧ shortRequest.eng.ms.active = false ∧ shortRequest.ctl.Consistent ∧
    shortRequest.ctl.phase = .free ∧ shortRequest.ctl.nackf = false ∧ shortRequest.host.hdrLen.toNat ≤ 255 ∧
    readable blk shortRequest.host.hdrPtr shortRequest.host.hdrLen.toNat ∧
    readable blk shortRequest.host.payPtr shortRequest.host.payLen.toNat ∧ ∃ g, exec .go shortRequest = .next g :=
  ⟨rfl, rfl, by constructor <;> decide, rfl, rfl, by decide, ⟨by decide, by decide⟩, ⟨by decide, by decide⟩, ⟨_, rfl⟩⟩

end Sys2Proof.Tests
end

/-! PROOFS. The family of spec/10_state.md: the reset table (R44), the fields of H.STATUS (R28, R29), and HOST's writes (R31). -/

namespace Sys2Proof.Machine

/-! ### The fields of the STATUS word

`statusWord` is a concatenation: a field is reached by passing over the fields below it, one at a time. -/

section StatusWord

variable (e : Engine)

theorem statusWord_done : (statusWord e).getLsbD 0 = e.ms.done := by
  rw [statusWord, BitVec.getLsbD_append]
  simp

theorem statusWord_outcome : (statusWord e).getLsbD 1 = (e.ms.done && e.out) := by
  rw [statusWord]
  iterate 2 rw [BitVec.getLsbD_append]
  simp

theorem statusWord_cause : (statusWord e).extractLsb' 2 2 = e.cause.code := by
  rw [statusWord]
  iterate 2 rw [BitVec.extractLsb'_append_eq_of_le (by simp)]
  exact BitVec.extractLsb'_append_eq_right

theorem statusWord_state : (statusWord e).extractLsb' 4 3 = e.ms.state := by
  rw [statusWord]
  iterate 3 rw [BitVec.extractLsb'_append_eq_of_le (by simp)]
  exact BitVec.extractLsb'_append_eq_right

theorem statusWord_active : (statusWord e).getLsbD 7 = e.ms.active := by
  rw [statusWord]
  iterate 5 rw [BitVec.getLsbD_append]
  simp

theorem statusWord_code : (statusWord e).extractLsb' 8 5 = e.ms.code := by
  rw [statusWord]
  iterate 5 rw [BitVec.extractLsb'_append_eq_of_le (by simp)]
  exact BitVec.extractLsb'_append_eq_right

theorem statusWord_reserved : (statusWord e).extractLsb' 13 19 = 0#19 := by
  rw [statusWord]
  iterate 6 rw [BitVec.extractLsb'_append_eq_of_le (by simp)]
  exact BitVec.extractLsb'_eq_self

end StatusWord

/-- The two micro-states that give a verdict (R28). -/
theorem Micro.done_iff (m : Micro) : m.done = true ↔ m = .doneC ∨ m = .doneR := by
  cases m <;> decide

/-- The three micro-states in which no request runs (R28). -/
theorem Micro.active_iff (m : Micro) : m.active = true ↔ m ≠ .idle ∧ m ≠ .doneC ∧ m ≠ .doneR := by
  cases m <;> decide

/-! ### HOST's writes of ENGINE's registers -/

/-- A legal word access reaches the register found at its offset (R65). -/
theorem wordAccess_at {R : Type} {find : Nat → Option R} {off : Nat} {r : R} (h4 : off % 4 = 0) (h : find off = some r)
    (k : R → Result) : wordAccess find off .word k = k r := by
  simp [wordAccess, h4, h]

/-- An aligned 32-bit write at a register's offset writes its word there (R87). -/
theorem hostStep_wr_word {off : Nat} {r : HostReg} (h4 : off % 4 = 0) (h : regAt off = some r) (p : Params) (v : Word)
    (s : State) : hostStep p (.wr off .word (v.setWidth 64)) s = writeReg r v s := by
  have hv : (v.setWidth 64).setWidth 32 = v := by simp
  rw [hostStep, hostWr, wordAccess_at h4 h, hv]

/-- A write of CMD while a request is active has no effect, GO or not (R27, R151). -/
theorem writeReg_cmd_of_active {s : State} (h : s.eng.ms.active = true) (v : Word) : writeReg .cmd v s = .next s := by
  have hgo : exec .go s = .next s := by simp [exec, execGo, h]
  simp only [writeReg, decodeHostCmd]
  cases v.getLsbD 0
  · rfl
  · exact hgo

/-- A word access at ENGINE_BASE + offset goes to the register access at that offset (R21, R61). -/
theorem routed_engineWord (p : Params) {off : Nat} (h : off < 0x20) (h4 : off % 4 = 0) (reg : Nat → Result) (mem : Result) :
    routed p (p.engineBase + BitVec.ofNat 32 off) .word reg mem = reg off := by
  obtain ⟨he, hc⟩ := engineWord_touches p h h4
  have hoff : (p.engineBase + BitVec.ofNat 32 off - p.engineBase).toNat = off := by
    rw [BitVec.add_comm, BitVec.add_sub_cancel, BitVec.toNat_ofNat]; omega
  rw [routed_engine hc he, hoff]

/-! ### The request registers are carried along

Nothing that ENGINE or BUS does reads the request registers: it commutes with replacing them. -/

section WithHost

variable (h : HostRegs) (s : State)

theorem mapNext_next (f : State → State) : mapNext f (.next s) = .next (f s) := rfl

theorem guarded_withHost (ok : Bool) (r : FaultReason) (t : State) :
    guarded ok r (s.withHost h) (t.withHost h) = mapNext (·.withHost h) (guarded ok r s t) := by
  cases ok <;> rfl

theorem exec_op_withHost {i : Instr} (hi : i.isOp = true) :
    exec i (s.withHost h) = mapNext (·.withHost h) (exec i s) := by
  cases i with
  | setaddr a => exact guarded_withHost h s _ _ (s.answer none _)
  | setdir d => exact guarded_withHost h s _ _ (s.answer none _)
  | setautoend e => exact guarded_withHost h s _ _ (s.answer none _)
  | setreload r => exact guarded_withHost h s _ _ (s.answer none _)
  | push b => exact guarded_withHost h s _ _ (s.answer none _)
  | setnbytes n =>
    simp only [exec, execSetnbytes, State.withHost_ctl]
    cases s.ctl.phase <;> rfl
  | start =>
    simp only [exec, execStart, State.withHost_ctl, apply_ite (mapNext _), ← guarded_withHost]
    rfl
  | polltxis => rfl
  | polltcr => rfl
  | pollnack => rfl
  | clrnack => rfl
  | pollbusy => rfl
  | go => cases hi

/-- An op issued by ENGINE: its registers after the op must be computed without the request registers. -/
theorem issue_withHost {i : Instr} (hi : i.isOp = true) {k : State → Engine} (hk : ∀ t : State, k (t.withHost h) = k t) :
    issue i (s.withHost h) k = mapNext (·.withHost h) (issue i s k) := by
  simp only [issue, acceptOpWord_encodeOp hi, exec_op_withHost h s hi]
  cases exec i s with
  | next t =>
    simp only [mapNext_next, State.withHost_fault, hk, apply_ite (mapNext _)]
    rfl
  | fault f => rfl
  | refused r => rfl

/-- A buffer read is made from ENGINE's latched registers and HOSTMEM (R62, R70). -/
theorem memRead_withHost (p : Params) (d : Nat) (base len k : Word) :
    memRead p d (s.withHost h) base len k = memRead p d s base len k := rfl

theorem stepHPush_withHost (p : Params) (d : Nat) :
    stepHPush p d (s.withHost h) = mapNext (·.withHost h) (stepHPush p d s) := by
  simp only [stepHPush, State.withHost_eng, memRead_withHost]
  cases memRead p d s s.eng.lHp s.eng.lHl (headerIndex s.eng) with
  | byte b => exact issue_withHost h s rfl fun _ => rfl
  | notAdmitted => rfl
  | overlap => rfl

theorem stepPPush_withHost (p : Params) (d : Nat) :
    stepPPush p d (s.withHost h) = mapNext (·.withHost h) (stepPPush p d s) := by
  simp only [stepPPush, State.withHost_eng, memRead_withHost]
  cases memRead p d s s.eng.lPp s.eng.lPl (payloadIndex s.eng) with
  | byte b => exact issue_withHost h s rfl fun _ => rfl
  | notAdmitted => rfl
  | overlap => rfl

theorem engineStep_withHost (p : Params) (d : Nat) :
    engineStep p d (s.withHost h) = mapNext (·.withHost h) (engineStep p d s) := by
  simp only [engineStep, State.withHost_eng]
  cases s.eng.ms
  case idle => rfl
  case doneC => rfl
  case doneR => rfl
  case hPush => exact stepHPush_withHost h s p d
  case pPush => exact stepPPush_withHost h s p d
  all_goals exact issue_withHost h s rfl fun _ => rfl

theorem answered_withHost (ev : WireEvent) (answer : Ack) :
    answered (s.withHost h) ev answer = mapNext (·.withHost h) (answered s ev answer) := by
  cases answer with
  | nack => rfl
  | ack =>
    simp only [answered, State.withHost_ctl]
    cases s.ctl.afterAck <;> rfl

theorem busStep_withHost (p : Params) (answer : Ack) :
    busStep p answer (s.withHost h) = mapNext (·.withHost h) (busStep p answer s) := by
  simp only [busStep, State.withHost_ctl]
  cases s.ctl.phase
  case addr => exact answered_withHost h s _ answer
  case data => exact answered_withHost h s _ answer
  case segEmpty =>
    simp only [busEmpty, apply_ite (mapNext _)]
    rfl
  case nackHold =>
    simp only [busNackRelease, apply_ite (mapNext _)]
    rfl
  all_goals rfl

end WithHost

/-! ### The obligations -/

/-- Settles O41: a word write is `writeReg` at its offset, a word store is routed to that write, and ENGINE's and BUS's steps
commute with replacing the request registers. -/
theorem hostWritesTakeEffectAtOnce : Obligations.HostWritesTakeEffectAtOnce := by
  intro p s
  refine ⟨fun v => ⟨?_, ?_, ?_, ?_, ?_, fun hactive => ?_, ?_, ?_⟩, fun off hoff h4 v => ?_,
    fun h d a => ⟨engineStep_withHost h s p d, busStep_withHost h s p a⟩⟩
  · rw [hostStep_wr_word (r := .addr) rfl rfl, writeReg, BitVec.setWidth_eq_extractLsb' (by decide)]
    rfl
  · exact hostStep_wr_word (r := .hdrPtr) rfl rfl p v s
  · exact hostStep_wr_word (r := .hdrLen) rfl rfl p v s
  · exact hostStep_wr_word (r := .payPtr) rfl rfl p v s
  · exact hostStep_wr_word (r := .payLen) rfl rfl p v s
  · rw [hostStep_wr_word (r := .cmd) rfl rfl]
    exact writeReg_cmd_of_active ((statusWord_active s.eng).symm.trans hactive) v
  · exact hostStep_wr_word (r := .status) rfl rfl p v s
  · exact hostStep_wr_word (r := .pushed) rfl rfl p v s
  · exact routed_engineWord p hoff h4 (fun off => hostWr off .word v s) _

/-- Settles O1: the reset state is written out, and it reads STATUS and PUSHED as 0. -/
theorem resetLeavesSpecValues : Obligations.ResetLeavesSpecValues :=
  ⟨rfl, rfl, rfl, rfl, rfl, by decide, rfl⟩

/-- Settles O39: each field of the STATUS word is ENGINE's flag or code, and the codes are those of the tables. -/
theorem statusFields : Obligations.StatusFields := by
  intro e
  rw [statusWord_done, statusWord_outcome, statusWord_cause, statusWord_state, statusWord_active, statusWord_code,
    Bool.and_eq_true, Micro.done_iff, Micro.active_iff]
  refine ⟨Iff.rfl, Iff.rfl, ?_, ?_, Iff.rfl, ?_, statusWord_reserved e⟩
  · cases e.cause <;> rfl
  · cases e.ms <;> rfl
  · cases e.ms <;> rfl

end Sys2Proof.Machine


/-! PROOFS. The family of spec/30_encoding.md: the opcode map and the decoder (R84, R90), the host command (R86), the completion
of every op (R82), and the register access of each op (R89). -/

namespace Sys2Proof

/-! ### A word is its row's match and its operand (R83, R84) -/

section Operands

variable {w value : OpWord}

/-- The bits outside a mask `~~~m` complete what the mask keeps. -/
theorem or_and_of_and_not {m : OpWord} (h : w &&& ~~~m = value) : value ||| (w &&& m) = w := by
  subst h
  ext k hk
  simp only [BitVec.getElem_or, BitVec.getElem_and, BitVec.getElem_not]
  cases m[k] <;> simp

/-- An operand in the low `n` bits, put back beside the match. -/
theorem or_operand (n : Nat) (h : w &&& ~~~((BitVec.allOnes n).setWidth 16) = value) :
    value ||| (w.extractLsb' 0 n).setWidth 16 = w := by
  have hop : (w.extractLsb' 0 n).setWidth 16 = w &&& (BitVec.allOnes n).setWidth 16 := by
    ext k hk
    simp [BitVec.getLsbD_eq_getElem hk, Bool.and_comm]
  rw [hop, or_and_of_and_not h]

/-- A one-bit operand, put back beside the match. -/
theorem or_flag (h : w &&& 0xFFFE#16 = value) : value ||| (BitVec.ofBool (w.getLsbD 0)).setWidth 16 = w := by
  rw [← BitVec.and_one_eq_setWidth_ofBool_getLsbD, or_and_of_and_not h]

/-- A row without an operand accepts its match alone. -/
theorem eq_of_and_full (h : w &&& 0xFFFF#16 = value) : value = w := h.symm.trans BitVec.and_allOnes

end Operands

/-! ### The rows of the opcode map do not overlap (R84) -/

section OpcodeMap

variable {w : OpWord} {r : OpRow}

theorem OpRow.accepts_iff : r.accepts w = true ↔ w &&& r.mask = r.value := beq_iff_eq

/-- Every row fixes the four bits of OPC. -/
theorem opRows_fix_opc : ∀ r ∈ opRows, opcOf r.mask = 0xF#4 := by decide

/-- No two rows have the same OPC. -/
theorem opRows_opc_inj : ∀ r ∈ opRows, ∀ r' ∈ opRows, opcOf r'.value = opcOf r.value → r' = r := by decide

/-- No row is listed twice. -/
theorem opRows_count : ∀ r ∈ opRows, opRows.count r = 1 := by decide

/-- A row accepts words of its own OPC only. -/
theorem opcOf_of_accepts (hr : r ∈ opRows) (h : r.accepts w = true) : opcOf w = opcOf r.value := by
  have hand : opcOf (w &&& r.mask) = opcOf w &&& opcOf r.mask := BitVec.extractLsb'_and
  rw [← OpRow.accepts_iff.1 h, hand, opRows_fix_opc r hr]
  exact BitVec.and_allOnes.symm

/-- The row that accepts a word is the only one. -/
theorem rowsOf_of_accepts (hr : r ∈ opRows) (h : r.accepts w = true) : rowsOf w = [r.mnemonic] := by
  have honly : ∀ r' ∈ opRows, r'.accepts w = (r' == r) := fun r' hr' => by
    rw [Bool.eq_iff_iff, beq_iff_eq]
    exact ⟨fun h' => opRows_opc_inj r hr r' hr' ((opcOf_of_accepts hr' h').symm.trans (opcOf_of_accepts hr h)),
      fun he => he ▸ h⟩
  rw [rowsOf, List.filter_congr honly, List.filter_beq, opRows_count r hr]
  rfl

end OpcodeMap

/-! ### The decode procedure (R90) -/

section Decoder

variable {w : OpWord} {i : Instr}

/-- Decoding gives back every encoded op. -/
theorem decodeOp_encodeOp (hi : i.isOp = true) : decodeOp (encodeOp i) = .instr i := by
  cases i with
  | setaddr a => exact decodeOp_setaddr a
  | setdir d => exact decodeOp_setdir d
  | setnbytes n => exact decodeOp_setnbytes n
  | setautoend e => exact decodeOp_setautoend e
  | setreload r => exact decodeOp_setreload r
  | push b => exact decodeOp_push b
  | start => rfl
  | polltxis => rfl
  | polltcr => rfl
  | pollnack => rfl
  | clrnack => rfl
  | pollbusy => rfl
  | go => cases hi

/-- What decodes is the encoding of an op, and the row of its mnemonic accepts it: one row of the map per case of OPC. -/
theorem decodeOp_instr (h : decodeOp w = .instr i) :
    i.isOp = true ∧ encodeOp i = w ∧ ∃ r ∈ opRows, r.accepts w = true ∧ r.mnemonic = Machine.mnemonicOf i := by
  unfold decodeOp at h
  split at h
  case h_13 => cases h
  all_goals obtain ⟨hw, rfl⟩ := decodeRow_eq_instr.1 h
  · exact ⟨rfl, or_operand 7 hw, opRows[0], by decide, OpRow.accepts_iff.2 hw, rfl⟩
  · exact ⟨rfl, or_flag hw, opRows[1], by decide, OpRow.accepts_iff.2 hw, rfl⟩
  · exact ⟨rfl, or_operand 8 hw, opRows[2], by decide, OpRow.accepts_iff.2 hw, rfl⟩
  · exact ⟨rfl, or_flag hw, opRows[3], by decide, OpRow.accepts_iff.2 hw, rfl⟩
  · exact ⟨rfl, or_flag hw, opRows[4], by decide, OpRow.accepts_iff.2 hw, rfl⟩
  · exact ⟨rfl, eq_of_and_full hw, opRows[5], by decide, OpRow.accepts_iff.2 hw, rfl⟩
  · exact ⟨rfl, eq_of_and_full hw, opRows[6], by decide, OpRow.accepts_iff.2 hw, rfl⟩
  · exact ⟨rfl, eq_of_and_full hw, opRows[7], by decide, OpRow.accepts_iff.2 hw, rfl⟩
  · exact ⟨rfl, eq_of_and_full hw, opRows[8], by decide, OpRow.accepts_iff.2 hw, rfl⟩
  · exact ⟨rfl, eq_of_and_full hw, opRows[9], by decide, OpRow.accepts_iff.2 hw, rfl⟩
  · exact ⟨rfl, eq_of_and_full hw, opRows[10], by decide, OpRow.accepts_iff.2 hw, rfl⟩
  · exact ⟨rfl, or_operand 8 hw, opRows[11], by decide, OpRow.accepts_iff.2 hw, rfl⟩

/-- A word that a row accepts decodes: its OPC selects that row. -/
theorem decodeOp_of_accepts {r : OpRow} (hr : r ∈ opRows) (h : r.accepts w = true) : ∃ i, decodeOp w = .instr i := by
  have hopc := opcOf_of_accepts hr h
  have hw := OpRow.accepts_iff.1 h
  unfold decodeOp
  rw [hopc]
  fin_cases hr <;> exact ⟨_, decodeRow_eq_instr.2 ⟨hw, rfl⟩⟩

/-- Some row accepts a word exactly when it decodes. -/
theorem legalOpWord_iff_decodes : legalOpWord w = true ↔ ∃ i, decodeOp w = .instr i := by
  rw [legalOpWord, List.any_eq_true]
  constructor
  · rintro ⟨r, hr, h⟩
    exact decodeOp_of_accepts hr h
  · rintro ⟨i, h⟩
    obtain ⟨-, -, r, hr, haccepts, -⟩ := decodeOp_instr h
    exact ⟨r, hr, haccepts⟩

/-- The four values of OPC that no row has (R85, R90 step 2). -/
theorem decodeOp_reservedOpc (h : opcOf w = 0x0#4 ∨ opcOf w = 0xD#4 ∨ opcOf w = 0xE#4 ∨ opcOf w = 0xF#4) :
    decodeOp w = .invalid .reservedOpc := by
  unfold decodeOp
  obtain h | h | h | h := h <;> rw [h] <;> rfl

end Decoder

end Sys2Proof

namespace Sys2Proof.Machine

/-! ### The obligations of the two interfaces (R84 to R86, R90) -/

/-- Settles O5: decoding and encoding are inverse, and a word that decodes is accepted by the row of its mnemonic, which no
other row overlaps. -/
theorem decoderAcceptsExactlyTheLegalWords : Obligations.DecoderAcceptsExactlyTheLegalWords := by
  intro w
  refine ⟨fun i => ⟨fun h => ?_, ?_⟩, legalOpWord_iff_decodes, fun i h => ?_, decodeOp_reservedOpc⟩
  · obtain ⟨hop, henc, -⟩ := decodeOp_instr h
    exact ⟨hop, henc⟩
  · rintro ⟨hop, rfl⟩
    exact decodeOp_encodeOp hop
  · obtain ⟨-, -, r, hr, haccepts, hname⟩ := decodeOp_instr h
    rw [rowsOf_of_accepts hr haccepts, hname]

/-- A write of CMD is GO, or nothing, as bit 0 says (R86). -/
theorem writeReg_cmd (v : Word) (s : State) :
    writeReg .cmd v s = if v.getLsbD 0 then exec .go s else .next s := by
  simp only [writeReg, decodeHostCmd]
  cases v.getLsbD 0 <;> rfl

/-- Settles O6: bit 0 alone decides what a write of CMD is. -/
theorem hostCommandWordIssuesGo : Obligations.HostCommandWordIssuesGo := fun v s =>
  ⟨fun h => ⟨if_pos h, by rw [writeReg_cmd, if_pos h]⟩, fun h => by rw [writeReg_cmd, h]; rfl, rfl⟩

/-! ### The response of an op (R82) -/

/-- Every op has a next state. -/
theorem exec_op_next {i : Instr} (hi : i.isOp = true) (s : State) : ∃ t, exec i s = .next t := by
  obtain ⟨r, h⟩ | ⟨o, c, h⟩ | ⟨-, -, h⟩ := exec_op_cases hi s <;> exact ⟨_, h⟩

/-- An op that is no poll answers with no response when it raises no fault. -/
theorem exec_resp_none {i : Instr} {s t : State} (hi : i.isOp = true) (h : exec i s = .next t) (ht : t.fault = [])
    (htxis : i ≠ .polltxis) (htcr : i ≠ .polltcr) (hnack : i ≠ .pollnack) (hbusy : i ≠ .pollbusy) : t.resp = none := by
  have hguarded : ∀ {ok r c}, guarded ok r s (s.answer none c) = .next t → t.resp = none := fun hg => by
    obtain ⟨-, rfl⟩ := guarded_noFault hg ht
    rfl
  have hraised : ∀ {r}, (.next (s.raise r) : Result) = .next t → t.resp = none := fun hr => by
    cases hr
    exact absurd ht (raise_fault_ne_nil s _)
  cases i with
  | setaddr a => exact hguarded h
  | setdir d => exact hguarded h
  | setautoend e => exact hguarded h
  | setreload r => exact hguarded h
  | push b => exact hguarded h
  | setnbytes n =>
    simp only [exec, execSetnbytes] at h
    split at h
    · cases h; rfl
    · cases h; rfl
    all_goals exact hraised h
  | start =>
    simp only [exec, execStart] at h
    split_ifs at h
    · obtain ⟨-, rfl⟩ := guarded_noFault h ht
      rfl
    · exact hraised h
  | clrnack => cases h; rfl
  | polltxis => exact absurd rfl htxis
  | polltcr => exact absurd rfl htcr
  | pollnack => exact absurd rfl hnack
  | pollbusy => exact absurd rfl hbusy
  | go => cases hi

/-- Settles O19: every op has a next state, a poll's holds its flag, and any other op's holds no response. -/
theorem everyOpCompletesInOneStep : Obligations.EveryOpCompletesInOneStep := by
  intro i s hi _
  obtain ⟨t, h⟩ := exec_op_next hi s
  refine ⟨t, h, ?_, ?_, ?_, ?_, exec_resp_none hi h⟩
  · rintro rfl; cases h; rfl
  · rintro rfl; cases h; rfl
  · rintro rfl; cases h; rfl
  · rintro rfl; cases h; rfl

/-! ### CR2: a field, and the bits outside it

`cr2Word` is a concatenation: a field is reached by passing over the fields below it, and a mask written as the same
concatenation hides one field and keeps the rest. -/

section Append

variable {n k : Nat} {x x' m : BitVec n} {y y' l : BitVec k}

/-- Words that agree under a mask agree under it above the same low part. -/
theorem and_append_low (h : x &&& m = x' &&& m) : (x ++ y) &&& (m ++ l) = (x' ++ y) &&& (m ++ l) := by
  rw [BitVec.and_append, h, BitVec.and_append]

/-- A low part under a mask of zeros is hidden. -/
theorem and_append_hidden (h : x &&& m = x' &&& m) : (x ++ y) &&& (m ++ 0#k) = (x' ++ y') &&& (m ++ 0#k) := by
  rw [BitVec.and_append, h, BitVec.and_zero, BitVec.and_append, BitVec.and_zero]

/-- The low bits of a concatenation that reach `n'` bits into its high part. -/
theorem extractLsb'_zero_append {n' : Nat} {z : BitVec n'} (h : x.extractLsb' 0 n' = z) :
    (x ++ y).extractLsb' 0 (n' + k) = z ++ y := by
  subst h
  ext j hj
  simp only [BitVec.getElem_extractLsb', BitVec.getLsbD_append, BitVec.getElem_append, Nat.zero_add]
  split_ifs <;> rfl

end Append

section Cr2

variable (c : Ctrl)

theorem cr2Word_sadd : (cr2Word c).extractLsb' 0 10 =
    c.saddRest.extractLsb' 1 2 ++ c.sadd7 ++ c.saddRest.extractLsb' 0 1 := by
  rw [cr2Word]
  exact extractLsb'_zero_append (extractLsb'_zero_append BitVec.extractLsb'_append_eq_right)

/-- SADD with its bits outside SADD[7:1] at 0. -/
theorem cr2Word_sadd_of_rest {c : Ctrl} (h : c.saddRest = 0#3) :
    (cr2Word c).extractLsb' 0 10 = 0#2 ++ c.sadd7 ++ 0#1 := by
  rw [cr2Word_sadd, h]
  rfl

theorem cr2Word_rdWrn : (cr2Word c).getLsbD 10 = c.rdWrn := by
  rw [cr2Word]
  iterate 4 rw [BitVec.getLsbD_append]
  simp

theorem cr2Word_nbytes : (cr2Word c).extractLsb' 16 8 = c.nbytes := by
  rw [cr2Word]
  iterate 9 rw [BitVec.extractLsb'_append_eq_of_le (by simp)]
  exact BitVec.extractLsb'_append_eq_right

theorem cr2Word_reload : (cr2Word c).getLsbD 24 = c.reload := by
  rw [cr2Word]
  iterate 11 rw [BitVec.getLsbD_append]
  simp

theorem cr2Word_autoend : (cr2Word c).getLsbD 25 = c.autoend := by
  rw [cr2Word]
  iterate 12 rw [BitVec.getLsbD_append]
  simp

theorem cr2Word_outside_sadd (a : Target) (b : BitVec 3) :
    cr2Word { c with sadd7 := a, saddRest := b } &&& 0xFFFFFC00#32 = cr2Word c &&& 0xFFFFFC00#32 := by
  have hmask : 0xFFFFFC00#32 = BitVec.allOnes 22 ++ 0#2 ++ 0#7 ++ 0#1 := rfl
  rw [hmask]
  exact and_append_hidden (and_append_hidden (and_append_hidden rfl))

theorem cr2Word_outside_rdWrn (d : Bool) :
    cr2Word { c with rdWrn := d } &&& 0xFFFFFBFF#32 = cr2Word c &&& 0xFFFFFBFF#32 := by
  have hmask : 0xFFFFFBFF#32 = BitVec.allOnes 21 ++ 0#1 ++ BitVec.allOnes 2 ++ BitVec.allOnes 7 ++ BitVec.allOnes 1 := rfl
  rw [hmask]
  iterate 3 apply and_append_low
  exact and_append_hidden rfl

/-- The mask `m` of the bits from NBYTES up, above a mask that keeps every field below NBYTES. -/
def keepBelowNbytes {n : Nat} (m : BitVec n) : BitVec (n + 1 + 1 + 1 + 1 + 1 + 1 + 2 + 7 + 1) :=
  m ++ BitVec.allOnes 1 ++ BitVec.allOnes 1 ++ BitVec.allOnes 1 ++ BitVec.allOnes 1 ++ BitVec.allOnes 1 ++
    BitVec.allOnes 1 ++ BitVec.allOnes 2 ++ BitVec.allOnes 7 ++ BitVec.allOnes 1

theorem cr2Word_outside_nbytes (n : Byte) :
    cr2Word { c with nbytes := n } &&& 0xFF00FFFF#32 = cr2Word c &&& 0xFF00FFFF#32 := by
  have hmask : 0xFF00FFFF#32 = keepBelowNbytes (BitVec.allOnes 8 ++ 0#8) := rfl
  rw [hmask]
  iterate 9 apply and_append_low
  exact and_append_hidden rfl

theorem cr2Word_outside_reload (r : Bool) :
    cr2Word { c with reload := r } &&& 0xFEFFFFFF#32 = cr2Word c &&& 0xFEFFFFFF#32 := by
  have hmask : 0xFEFFFFFF#32 = keepBelowNbytes (BitVec.allOnes 7 ++ 0#1 ++ BitVec.allOnes 8) := rfl
  rw [hmask]
  iterate 10 apply and_append_low
  exact and_append_hidden rfl

theorem cr2Word_outside_autoend (e : Bool) :
    cr2Word { c with autoend := e } &&& 0xFDFFFFFF#32 = cr2Word c &&& 0xFDFFFFFF#32 := by
  have hmask : 0xFDFFFFFF#32 = keepBelowNbytes (BitVec.allOnes 6 ++ 0#1 ++ BitVec.allOnes 1 ++ BitVec.allOnes 8) := rfl
  rw [hmask]
  iterate 11 apply and_append_low
  exact and_append_hidden rfl

end Cr2

/-! ### ISR: the four flags -/

section Isr

variable (f : Word) (c : Ctrl)

/-- A bit that the block has reads as its flag, whatever the free word (R38). -/
theorem isrWord_flag {j : Nat} (h : isrMask.getLsbD j = true) : (isrWord f c).getLsbD j = (isrFlags c).getLsbD j := by
  simp [isrWord, h]

theorem isrWord_txis : (isrWord f c).getLsbD 1 = c.txis := by
  rw [isrWord_flag f c rfl, isrFlags]
  iterate 2 rw [BitVec.getLsbD_append]
  simp

theorem isrWord_nackf : (isrWord f c).getLsbD 4 = c.nackf := by
  rw [isrWord_flag f c rfl, isrFlags]
  iterate 4 rw [BitVec.getLsbD_append]
  simp

theorem isrWord_tcr : (isrWord f c).getLsbD 7 = c.tcr := by
  rw [isrWord_flag f c rfl, isrFlags]
  iterate 6 rw [BitVec.getLsbD_append]
  simp

theorem isrWord_busy : (isrWord f c).getLsbD 15 = c.busy := by
  rw [isrWord_flag f c rfl, isrFlags]
  iterate 8 rw [BitVec.getLsbD_append]
  simp

end Isr

/-! ### The register access of each op (R89) -/

/-- A write of SADD whose bits outside SADD[7:1] are 0 is SETADDR and nothing more. -/
theorem writeSadd_target (p : Params) (a : Target) (s : State) :
    writeSadd p (0#2 ++ a ++ 0#1) s = exec (.setaddr a) s := by
  have ha : (0#2 ++ a ++ 0#1).extractLsb' 1 7 = a := by
    rw [BitVec.extractLsb'_append_eq_of_le (by simp)]
    exact BitVec.extractLsb'_append_eq_right
  have hhigh : (0#2 ++ a ++ 0#1).extractLsb' 8 2 = 0#2 := by
    iterate 2 rw [BitVec.extractLsb'_append_eq_of_le (by simp)]
    rfl
  have hlow : (0#2 ++ a ++ 0#1).getLsbD 0 = false := by
    rw [BitVec.getLsbD_append]
    rfl
  rw [writeSadd, ha]
  obtain ⟨t, ht⟩ := exec_op_next (i := .setaddr a) rfl s
  simp only [ht, hhigh, hlow, and_self, not_true_eq_false, and_false, if_false]

/-- A write of 1 to NACKCF alone is CLRNACK. -/
theorem writeCtrlReg_icr_nackcf (p : Params) (s : State) : writeCtrlReg p .icr nackcf s = exec .clrnack s := rfl

/-- A byte written to TXDR is PUSH of that byte. -/
theorem writeCtrlReg_txdr_byte (p : Params) (b : Byte) (s : State) :
    writeCtrlReg p .txdr ((b.setWidth 64).setWidth 32) s = exec (.push b) s := by
  have hb : ((b.setWidth 64).setWidth 32).extractLsb' 0 8 = b := by
    rw [← BitVec.setWidth_eq_extractLsb' (by decide)]
    simp
  rw [writeCtrlReg, hb]

/-- SETRELOAD outside a frame. -/
theorem exec_setreload_free {r : Bool} {s : State} (h : s.ctl.phase = .free) :
    exec (.setreload r) s = .next (s.answer none { s.ctl with reload := r }) := by
  cases r
  · exact exec_setreload_false (by simp [h])
  · exact exec_setreload_true s

/-- Settles O46: each field update is its op by definition, CR2 is read field by field, and ISR bit by bit. -/
theorem opsAreRegisterAccesses : Obligations.OpsAreRegisterAccesses := by
  intro p s
  refine ⟨⟨fun a => writeSadd_target p a s, fun _ => rfl, fun _ => rfl, fun _ => rfl, fun _ => rfl, rfl,
      (ctrlAccess_wr p .icr _ s).trans (writeCtrlReg_icr_nackcf p s),
      fun b => (ctrlAccess_wr p .txdr _ s).trans (writeCtrlReg_txdr_byte p b s)⟩,
    fun hfree => ⟨fun a t ht => ?_, fun d t ht => ?_, fun n t ht => ?_, fun r t ht => ?_, fun e t ht => ?_⟩,
    fun f => ⟨?_, ?_, ?_, ?_⟩⟩
  · cases (exec_setaddr_free hfree).symm.trans ht
    exact ⟨cr2Word_sadd_of_rest rfl, cr2Word_outside_sadd s.ctl a _⟩
  · cases (exec_setdir_free hfree).symm.trans ht
    exact ⟨cr2Word_rdWrn _, cr2Word_outside_rdWrn s.ctl d⟩
  · cases (exec_setnbytes_free hfree).symm.trans ht
    exact ⟨cr2Word_nbytes _, cr2Word_outside_nbytes s.ctl n⟩
  · cases (exec_setreload_free hfree).symm.trans ht
    exact ⟨cr2Word_reload _, cr2Word_outside_reload s.ctl r⟩
  · cases (exec_setautoend_free hfree).symm.trans ht
    exact ⟨cr2Word_autoend _, cr2Word_outside_autoend s.ctl e⟩
  · rw [isrWord_txis]; rfl
  · rw [isrWord_nackf]; rfl
  · rw [isrWord_tcr]; rfl
  · rw [isrWord_busy]; rfl

end Sys2Proof.Machine


/-! PROOFS. The family of spec/40_frame_arbiter.md: the ops that configure a frame (R102, R103, R105, R106), START and PUSH
(R107, R113), the polls and CLRNACK (R108 to R112), and the steps of BUS (R115 to R119). -/

namespace Sys2Proof.Machine

/-! ### An op whose precondition fails (R215) -/

section Faults

variable {s : State}

/-- A guarded op whose precondition fails records its reason. -/
theorem guarded_false (hs : s.fault = []) (r : FaultReason) (t : State) :
    guarded false r s t = .next { s with fault := [r] } := by
  rw [guarded, if_neg Bool.false_ne_true, raise_of_noFault hs]

/-- An op that configures a frame, while one is open. -/
theorem configure_open (hphase : s.ctl.phase ≠ .free) (hs : s.fault = []) (c : Ctrl) :
    configure s c = .next { s with fault := [.cfgWhileBusy] } := by
  rw [configure, beq_eq_false_iff_ne.2 hphase, guarded_false hs]

/-- SETADDR while a frame is open. -/
theorem exec_setaddr_open (hphase : s.ctl.phase ≠ .free) (hs : s.fault = []) (a : Target) :
    exec (.setaddr a) s = .next { s with fault := [.cfgWhileBusy] } := configure_open hphase hs _

/-- SETDIR while a frame is open. -/
theorem exec_setdir_open (hphase : s.ctl.phase ≠ .free) (hs : s.fault = []) (d : Bool) :
    exec (.setdir d) s = .next { s with fault := [.cfgWhileBusy] } := configure_open hphase hs _

/-- SETAUTOEND while a frame is open. -/
theorem exec_setautoend_open (hphase : s.ctl.phase ≠ .free) (hs : s.fault = []) (e : Bool) :
    exec (.setautoend e) s = .next { s with fault := [.cfgWhileBusy] } := configure_open hphase hs _

/-- SETRELOAD 0 in a reload wait. -/
theorem exec_setreload_false_reloadWait (hphase : s.ctl.phase = .reloadWait) (hs : s.fault = []) :
    exec (.setreload false) s = .next { s with fault := [.reloadClearedInTcr] } := by
  rw [exec, execSetreload, hphase]
  exact guarded_false hs _ _

/-- START while a frame is open, whatever the direction (R219). -/
theorem exec_start_open (hphase : s.ctl.phase ≠ .free) (hs : s.fault = []) :
    exec .start s = .next { s with fault := [.startBusy] } := by
  rw [exec, execStart, if_neg hphase, raise_of_noFault hs]

/-- START outside a frame, in the read direction. -/
theorem exec_start_read (hphase : s.ctl.phase = .free) (hread : s.ctl.rdWrn = true) (hs : s.fault = []) :
    exec .start s = .next { s with fault := [.startRead] } := by
  rw [exec, execStart, if_pos hphase, hread]
  exact guarded_false hs _ _

/-- PUSH when the controller is not ready. -/
theorem exec_push_notReady (htxis : s.ctl.txis = false) (hs : s.fault = []) (b : Byte) :
    exec (.push b) s = .next { s with fault := [.pushNotReady] } := by
  rw [exec, execPush, htxis, guarded_false hs]

end Faults

/-! ### The end-of-byte procedure (R114) -/

section AfterAck

variable {c : Ctrl}

/-- Bytes of the segment remain. -/
theorem afterAck_of_nbytes_ne (hn : c.nbytes ≠ 0#8) : c.afterAck = some { c with txis := true, phase := .awaitTx } :=
  if_pos hn

/-- The segment is used up and reload is set. -/
theorem afterAck_of_reload (hn : c.nbytes = 0#8) (hr : c.reload = true) :
    c.afterAck = some { c with tcr := true, phase := .reloadWait } := by
  rw [Ctrl.afterAck, if_neg (not_not_intro hn), if_pos hr]

/-- The final segment is used up and the auto-stop is off. -/
theorem afterAck_of_autoend_off (hn : c.nbytes = 0#8) (hr : c.reload = false) (ha : c.autoend = false) :
    c.afterAck = none := by
  simp [Ctrl.afterAck, hn, hr, ha]

/-- AUTOEND is not read while bytes remain or reload is set (R105). -/
theorem afterAck_withAutoend (h : c.nbytes ≠ 0#8 ∨ c.reload = true) (e : Bool) :
    Ctrl.afterAck { c with autoend := e } = c.afterAck.map fun c' => { c' with autoend := e } := by
  by_cases hn : c.nbytes = 0#8
  · have hr : c.reload = true := h.resolve_left (not_not_intro hn)
    rw [afterAck_of_reload hn hr]
    exact afterAck_of_reload hn hr
  · rw [afterAck_of_nbytes_ne hn]
    exact afterAck_of_nbytes_ne hn

end AfterAck

/-! ### The BUS step of each phase (R115 to R119) -/

section Bus

variable {p : Params} {answer : Ack} {s : State}

theorem busStep_addr (h : s.ctl.phase = .addr) : busStep p answer s = busAddr answer s := by rw [busStep, h]

theorem busStep_data (h : s.ctl.phase = .data) : busStep p answer s = busData answer s := by rw [busStep, h]

theorem busStep_stopping (h : s.ctl.phase = .stopping) : busStep p answer s = busStop s := by rw [busStep, h]

/-- The end of an empty final segment, where the parameter says Stop. -/
theorem busStep_segEmpty (h : s.ctl.phase = .segEmpty) (hr : s.ctl.reload = false) (he : p.emptyFinalSegment = .stop) :
    busStep p answer s = .next (s.withCtl { s.ctl with phase := .stopping }) := by
  rw [busStep, h]
  exact if_pos ⟨hr, he⟩

/-- The release of the bus after a rejection, where the parameter grants it. -/
theorem busStep_nackHold (h : s.ctl.phase = .nackHold) (hn : p.nackReleasesBus = true) :
    busStep p answer s = .next ((s.log .stop).withCtl s.ctl.release) := by
  rw [busStep, h]
  exact if_pos hn

/-- An ACK whose end-of-byte procedure raises no fault. -/
theorem answered_ack {c : Ctrl} (h : s.ctl.afterAck = some c) (ev : WireEvent) :
    answered s ev .ack = .next ((s.log ev).withCtl c) := by
  rw [answered, h]

/-- When BUS has a step. -/
theorem busEnabled_iff : busEnabled p s = true ↔
    s.ctl.phase = .addr ∨ s.ctl.phase = .data ∨ s.ctl.phase = .stopping ∨
    (s.ctl.phase = .segEmpty ∧ s.ctl.reload = false ∧ p.emptyFinalSegment = .stop) ∨
    (s.ctl.phase = .nackHold ∧ p.nackReleasesBus = true) := by
  cases h : s.ctl.phase <;> simp [busEnabled, h]

end Bus

/-! ### The obligations: the ops -/

/-- Settles O10: the phase alone decides between SETADDR's effect and F_CFG_WHILE_BUSY. -/
theorem setaddrEffect : Obligations.SetaddrEffect := fun a _ =>
  ⟨rfl, exec_setaddr_free, fun hphase hs => exec_setaddr_open hphase hs a⟩

/-- Settles O11: the START of its second clause fails its own precondition. -/
theorem setdirEffect : Obligations.SetdirEffect := fun d _ =>
  ⟨rfl, fun hphase => ⟨exec_setdir_free hphase, fun hs hread => exec_start_read hphase hread hs⟩,
    fun hphase hs => exec_setdir_open hphase hs d⟩

/-- Settles O13: the end-of-byte procedure reads AUTOEND in its last two ends only. -/
theorem setautoendEffect : Obligations.SetautoendEffect := fun e _ =>
  ⟨rfl, exec_setautoend_free, fun hphase hs => exec_setautoend_open hphase hs e, fun h => afterAck_withAutoend h e,
    fun hn hr => afterAck_of_autoend_off hn hr rfl⟩

/-- Settles O14, by the value of `r`. -/
theorem setreloadEffect : Obligations.SetreloadEffect := by
  rintro (_ | _) s
  · refine ⟨rfl, fun h => ?_, fun _ => exec_setreload_false_reloadWait⟩
    exact exec_setreload_false (h.resolve_left Bool.false_ne_true)
  · exact ⟨rfl, fun _ => exec_setreload_true s, fun h => nomatch h⟩

/-- Settles O15: the phase is tested first, then the direction. -/
theorem startEffect : Obligations.StartEffect := fun _ =>
  ⟨rfl, exec_start_free, exec_start_open, exec_start_read⟩

/-- Settles O16: a poll leaves CTRL as it is, and the flags' meanings are three of the invariants of C.PH. -/
theorem pollsAnswerTheirFlags : Obligations.PollsAnswerTheirFlags := fun _ =>
  ⟨rfl, rfl, rfl, rfl, rfl, rfl, rfl, rfl, fun hc => ⟨hc.txis, hc.tcr, hc.busy⟩⟩

/-- Settles O17: CLRNACK is one update of CTRL, with no precondition. -/
theorem clrnackEffect : Obligations.ClrnackEffect := fun _ => ⟨rfl, rfl⟩

/-- Settles O18: TXIS alone decides between PUSH's effect and F_PUSH_NOT_READY. -/
theorem pushEffect : Obligations.PushEffect := fun b _ =>
  ⟨rfl, exec_push_ready, fun htxis hs => exec_push_notReady htxis hs b⟩

/-! ### The obligations: BUS -/

/-- Settles O23: each phase has its own event, and one answer procedure. -/
theorem deviceAnswersTheLastByte : Obligations.DeviceAnswersTheLastByte := fun _ _ =>
  ⟨fun h => ⟨busStep_addr h, fun _ hc => (busStep_addr h).trans (answered_ack hc _)⟩,
    fun h => ⟨busStep_data h, fun _ hc => (busStep_data h).trans (answered_ack hc _)⟩⟩

/-- Settles O25: one effect per phase that ends something, and the phases in which BUS has a step. -/
theorem busEndsSegmentsAndFrames : Obligations.BusEndsSegmentsAndFrames := fun _ _ _ =>
  ⟨busStep_stopping, busStep_segEmpty, busStep_nackHold, busEnabled_iff⟩

end Sys2Proof.Machine


/-! PROOFS. The family of spec/41_transfer_engine.md: GO (R151, R152), and ENGINE's steps from the preconditions to the rejection
exit (R154 to R165), with the byte waits of the payload and the reload wait (R186, R190, R191). -/

namespace Sys2Proof.Machine

/-! ### GO (R151, R152) -/

section Go

/-- The three micro-states in which GO is accepted (R151). -/
theorem Micro.active_eq_false_iff (m : Micro) : m.active = false ↔ m = .idle ∨ m = .doneC ∨ m = .doneR := by
  cases m <;> decide

/-- GO while no request runs latches the request registers. -/
theorem exec_go_of_inactive {s : State} (h : s.eng.ms.active = false) :
    exec .go s = .next { s with eng := Engine.accept s.host, trace := [], stale := [] } := by
  rw [exec, execGo, h]
  rfl

/-- GO while a request runs is ignored. -/
theorem exec_go_of_active {s : State} (h : s.eng.ms.active = true) : exec .go s = .next s := by
  rw [exec, execGo, if_pos h]

/-- The header length precondition as numbers (R153). -/
theorem headerTooLong_iff (h : HostRegs) : headerTooLong h = true ↔ 255 < h.hdrLen.toNat := by
  simp [headerTooLong, BitVec.lt_def]

/-- A header of more than 255 bytes ends at GO. -/
theorem Engine.accept_long {h : HostRegs} (hlong : 255 < h.hdrLen.toNat) :
    Engine.accept h = (Engine.latch h .chkBusy).reject .hdrTooLong := by
  rw [Engine.accept, if_pos ((headerTooLong_iff h).2 hlong)]

/-- A header of at most 255 bytes goes on to the bus-idle precondition. -/
theorem Engine.accept_short {h : HostRegs} (hshort : ¬ 255 < h.hdrLen.toNat) :
    Engine.accept h = Engine.latch h .chkBusy := by
  rw [Engine.accept, if_neg (mt (headerTooLong_iff h).1 hshort)]

end Go

/-! ### STATUS after a rejection (R28, R220) -/

/-- A rejected request reads DONE, OUTCOME 0, its cause, and the codes of Rejected and M_DONER. -/
theorem statusWord_reject {e : Engine} (hout : e.out = false) (c : Cause) :
    statusWord (e.reject c) = 0x00001451#32 ||| c.code.setWidth 32 <<< 2 := by
  rw [statusWord, Engine.reject_ms, Engine.reject_cause, Engine.reject_out, hout]
  cases c <;> decide

/-! ### The polls, by the flag's value (R108 to R110, R112) -/

section Polls

variable {s : State} {b : Bool}

theorem exec_polltxis_of_flag (h : s.ctl.txis = b) : exec .polltxis s = .next (s.answer (some b) s.ctl) := by
  rw [← h]; rfl

theorem exec_polltcr_of_flag (h : s.ctl.tcr = b) : exec .polltcr s = .next (s.answer (some b) s.ctl) := by
  rw [← h]; rfl

theorem exec_pollnack_of_flag (h : s.ctl.nackf = b) : exec .pollnack s = .next (s.answer (some b) s.ctl) := by
  rw [← h]; rfl

theorem exec_pollbusy_of_flag (h : s.ctl.busy = b) : exec .pollbusy s = .next (s.answer (some b) s.ctl) := by
  rw [← h]; rfl

end Polls

/-! ### ENGINE's step in a micro-state (R168) -/

section Dispatch

variable {p : Params} {d : Nat} {s : State}

theorem engineStep_chkBusy (h : s.eng.ms = .chkBusy) : engineStep p d s = stepChkBusy s := by rw [engineStep, h]

theorem engineStep_setAddr (h : s.eng.ms = .setAddr) : engineStep p d s = stepSetAddr s := by rw [engineStep, h]

theorem engineStep_setDir (h : s.eng.ms = .setDir) : engineStep p d s = stepSetDir s := by rw [engineStep, h]

theorem engineStep_setNbH (h : s.eng.ms = .setNbH) : engineStep p d s = stepSetNbH s := by rw [engineStep, h]

theorem engineStep_setAe (h : s.eng.ms = .setAe) : engineStep p d s = stepSetAe s := by rw [engineStep, h]

theorem engineStep_setRl (h : s.eng.ms = .setRl) : engineStep p d s = stepSetRl s := by rw [engineStep, h]

theorem engineStep_start (h : s.eng.ms = .start) : engineStep p d s = stepStart s := by rw [engineStep, h]

theorem engineStep_hNack (h : s.eng.ms = .hNack) : engineStep p d s = stepHNack s := by rw [engineStep, h]

theorem engineStep_hTx (h : s.eng.ms = .hTx) : engineStep p d s = stepHTx s := by rw [engineStep, h]

theorem engineStep_rpTcr (h : s.eng.ms = .rpTcr) : engineStep p d s = stepRpTcr s := by rw [engineStep, h]

theorem engineStep_pNack (h : s.eng.ms = .pNack) : engineStep p d s = stepPNack s := by rw [engineStep, h]

theorem engineStep_pTx (h : s.eng.ms = .pTx) : engineStep p d s = stepPTx s := by rw [engineStep, h]

theorem engineStep_rjClrN (h : s.eng.ms = .rjClrN) : engineStep p d s = stepRjClrN s := by rw [engineStep, h]

theorem engineStep_rjClrRl (h : s.eng.ms = .rjClrRl) : engineStep p d s = stepRjClrRl s := by rw [engineStep, h]

/-- The push of a header byte, once its read has given `b` (R163). -/
theorem engineStep_hPush_byte {b : Byte} (h : s.eng.ms = .hPush)
    (hread : memRead p d s s.eng.lHp s.eng.lHl (headerIndex s.eng) = .byte b) :
    engineStep p d s = issue (.push b) s fun t => t.eng.headerSent := by
  rw [engineStep, h]
  simp only [stepHPush, hread]

end Dispatch

/-! ### The obligations: GO -/

/-- Settles O21: GO looks at ACTIVE alone, and the verdict of the latch at the header length alone. -/
theorem goStartsARequest : Obligations.GoStartsARequest := by
  refine fun s => ⟨fun hms => ?_, fun h => exec_go_of_active ((statusWord_active s.eng).symm.trans h)⟩
  refine ⟨_, exec_go_of_inactive ((Micro.active_eq_false_iff _).2 hms), ?_,
    rfl, rfl, rfl, rfl, rfl, rfl, rfl, rfl, fun _ => rfl⟩
  by_cases hlen : 255 < s.host.hdrLen.toNat
  · rw [if_pos hlen, if_pos hlen]
    exact Engine.accept_long hlen
  · rw [if_neg hlen, if_neg hlen]
    exact Engine.accept_short hlen

/-! ### The obligations: ENGINE -/

/-- Settles O27: the answer of the poll decides, and R34 leaves OUT and PUSHED at 0 until the first push. -/
theorem engineChecksTheBusIsIdle : Obligations.EngineChecksTheBusIsIdle := by
  refine fun p d s hs hms => ⟨fun hbusy => ?_, fun hbusy => ⟨?_, fun hcounted => ?_⟩⟩
  · exact (engineStep_chkBusy hms).trans (issue_next rfl (exec_pollbusy_of_flag hbusy) hs)
  · exact (engineStep_chkBusy hms).trans (issue_next rfl (exec_pollbusy_of_flag hbusy) hs)
  · obtain ⟨⟨hout, -⟩, -, hpushed, -⟩ : s.eng.countedIn .chkBusy := hms ▸ hcounted.counters
    exact ⟨hout, hpushed, statusWord_reject hout .busBusy⟩

/-- Settles O28: with no frame open each op of the setup completes. -/
theorem engineProgramsTheController : Obligations.EngineProgramsTheController := fun _ _ _ hs hfree =>
  ⟨fun hms => (engineStep_setAddr hms).trans (issue_next rfl (exec_setaddr_free hfree) hs),
    fun hms => (engineStep_setDir hms).trans (issue_next rfl (exec_setdir_free hfree) hs),
    fun hms => (engineStep_setNbH hms).trans (issue_next rfl (exec_setnbytes_free hfree) hs),
    fun hms => (engineStep_setAe hms).trans (issue_next rfl (exec_setautoend_free hfree) hs),
    fun hms => (engineStep_setRl hms).trans (issue_next rfl (exec_setreload_true _) hs)⟩

/-- Settles O29: START completes in the write direction with no frame open. -/
theorem engineStartsTheFrame : Obligations.EngineStartsTheFrame := fun _ _ _ hs hms hfree hwrite =>
  (engineStep_start hms).trans (issue_next rfl (exec_start_free hfree hwrite) hs)

/-- Settles O30, by the micro-state and by the flag it polls. -/
theorem engineWaitsForFlags : Obligations.EngineWaitsForFlags := by
  refine fun p d s hs => ⟨fun hms hnack => ?_, fun hms hnack => ?_, fun hms => ?_, fun hms => ?_, fun hms => ?_⟩
  · obtain hms | hms := hms
    · exact (engineStep_hNack hms).trans (issue_next rfl (exec_pollnack_of_flag hnack) hs)
    · exact (engineStep_pNack hms).trans (issue_next rfl (exec_pollnack_of_flag hnack) hs)
  · obtain hms | hms := hms
    · rw [engineStep_hNack hms, hms]
      exact issue_next rfl (exec_pollnack_of_flag hnack) hs
    · rw [engineStep_pNack hms, hms]
      exact issue_next rfl (exec_pollnack_of_flag hnack) hs
  · rw [engineStep_hTx hms]
    cases h : s.ctl.txis <;> exact issue_next rfl (exec_polltxis_of_flag h) hs
  · rw [engineStep_pTx hms]
    cases h : s.ctl.txis <;> exact issue_next rfl (exec_polltxis_of_flag h) hs
  · rw [engineStep_rpTcr hms]
    cases h : s.ctl.tcr <;> exact issue_next rfl (exec_polltcr_of_flag h) hs

/-- Settles O32: the controller is ready for the byte read. -/
theorem enginePushesAHeaderByte : Obligations.EnginePushesAHeaderByte := fun _ _ _ _ hs hms htxis hread =>
  (engineStep_hPush_byte hms hread).trans (issue_next rfl (exec_push_ready htxis) hs)

/-- Settles O36: neither op of the exit faults, and R34 leaves the verdict at OUT 0 with cause NACK. -/
theorem engineAbandonsARejectedRequest : Obligations.EngineAbandonsARejectedRequest := by
  refine fun p d s hs => ⟨fun hms => ?_, fun hms hphase => ⟨?_, fun hcounted => ?_⟩⟩
  · exact (engineStep_rjClrN hms).trans (issue_next rfl (t := s.answer none s.ctl.clearNack) rfl hs)
  · exact (engineStep_rjClrRl hms).trans (issue_next rfl (exec_setreload_false hphase) hs)
  · obtain ⟨hout, hcause⟩ : s.eng.countedIn .rjClrRl := hms ▸ hcounted.counters
    exact (statusWord_reject hout s.eng.cause).trans (by rw [hcause]; rfl)

end Sys2Proof.Machine


/-! PROOFS. The family of spec/42_segment_reload.md: the payload segments (R187 to R189) and the payload push (R192). -/

namespace Sys2Proof.Machine

/-! ### ENGINE after a payload byte, and after the reload is cleared -/

/-- After a payload byte (R192): the counters move by one, and the two of them that say what is left decide the rest. -/
theorem Engine.payloadSent_eq (e : Engine) :
    e.payloadSent =
      { e with
        seg := e.seg - 1#8, rem := e.rem - 1#32, pushed := e.pushed + 1#32,
        out := if e.seg - 1#8 = 0#8 ∧ e.rem - 1#32 = 0#32 then true else e.out,
        ms := if e.seg - 1#8 ≠ 0#8 then .pNack else if e.rem - 1#32 ≠ 0#32 then .rpTcr else .doneC } := by
  rw [Engine.payloadSent]
  by_cases hseg : e.seg - 1#8 = 0#8
  · by_cases hrem : e.rem - 1#32 = 0#32 <;> simp [hseg, hrem, Engine.complete, Engine.at]
  · simp [hseg, Engine.at]

/-- After reload is cleared for the final segment (R189): an empty one is complete, any other is pushed. -/
theorem Engine.finalSegment_eq (e : Engine) :
    (if e.seg = 0#8 then e.complete else e.at .pNack) =
      { e with out := if e.seg = 0#8 then true else e.out, ms := if e.seg = 0#8 then .doneC else .pNack } := by
  by_cases hseg : e.seg = 0#8 <;> simp only [hseg, if_true, if_false, Engine.complete, Engine.at]

/-! ### ENGINE's step in the payload micro-states (R168) -/

section PayloadDispatch

variable {p : Params} {d : Nat} {s : State}

theorem engineStep_pSetNb (h : s.eng.ms = .pSetNb) : engineStep p d s = stepPSetNb s := by rw [engineStep, h]

theorem engineStep_pClrRl (h : s.eng.ms = .pClrRl) : engineStep p d s = stepPClrRl s := by rw [engineStep, h]

/-- The push of a payload byte, once its read has given `b` (R192). -/
theorem engineStep_pPush_byte {b : Byte} (h : s.eng.ms = .pPush)
    (hread : memRead p d s s.eng.lPp s.eng.lPl (payloadIndex s.eng) = .byte b) :
    engineStep p d s = issue (.push b) s fun t => t.eng.payloadSent := by
  rw [engineStep, h]
  simp only [stepPPush, hread]

end PayloadDispatch

/-! ### The obligations -/

/-- Settles O35: the length is `segmentLen`, and neither op faults in its phase. -/
theorem engineProgramsAPayloadSegment : Obligations.EngineProgramsAPayloadSegment := by
  refine fun p d s hs => ⟨fun hms hwait => ⟨segmentLen s.eng.rem, segmentLen_toNat s.eng.rem, ?_⟩, fun hms hphase => ?_⟩
  · rw [engineStep_pSetNb hms, stepPSetNb, issue_next rfl (exec_setnbytes_reloadWait hwait) hs]
    simp only [isFinal_iff]
    rfl
  · rw [engineStep_pClrRl hms, stepPClrRl, issue_next rfl (exec_setreload_false hphase) hs, Engine.finalSegment_eq]
    rfl

/-- Settles O33: the controller is ready for the byte read. -/
theorem enginePushesAPayloadByte : Obligations.EnginePushesAPayloadByte := by
  intro p d s b hs hms htxis hread
  rw [engineStep_pPush_byte hms hread, issue_next rfl (exec_push_ready htxis) hs, Engine.payloadSent_eq]
  rfl

end Sys2Proof.Machine


/-! PROOFS. The family of spec/60_exceptions.md: the header length rejection (R212). -/

namespace Sys2Proof.Machine

/-- GO with a header of more than 255 bytes starts a request that is over at once (R212). -/
theorem exec_go_long {s : State} (hms : s.eng.ms.active = false) (hlong : 255 < s.host.hdrLen.toNat) :
    exec .go s =
      .next { s with eng := (Engine.latch s.host .chkBusy).reject .hdrTooLong, trace := [], stale := [] } := by
  rw [exec_go_of_inactive hms, Engine.accept_long hlong]

/-- Settles O22: GO writes no CTRL state and no wire event, and the rejection leaves OUT and PUSHED at the 0 of the latch. -/
theorem longHeaderIsRejectedAtGo : Obligations.LongHeaderIsRejectedAtGo := fun _ hms hlong =>
  ⟨_, exec_go_long hms hlong, rfl, rfl, rfl, rfl, statusWord_reject rfl .hdrTooLong, rfl, rfl, rfl⟩

end Sys2Proof.Machine


/-! PROOFS. The family of spec/70_reset_and_hazards.md: RESET (R236 to R238). -/

namespace Sys2Proof.Machine

/-- RESET needs no fault recorded and nothing else, whoever makes it the next move (R236). -/
theorem advance_reset {p : Params} {s : State} (hfault : s.fault = []) (hmove : nextMove p s = .block .reset) :
    advance p s = .next (resetStep (popMove s)) := by
  rw [advance_run hfault, hmove]
  rfl

/-- After RESET CR2 reads 0 (R37, R238). -/
theorem cr2Word_ctrlReset : cr2Word Ctrl.reset = 0x00000000#32 := by decide

/-- After RESET no modelled flag is set: ISR reads the free word outside the modelled bits (R38, R238). -/
theorem isrWord_ctrlReset (f : Word) : isrWord f Ctrl.reset = f &&& ~~~isrMask := by
  have hflags : isrFlags Ctrl.reset = 0#32 := rfl
  rw [isrWord, hflags, BitVec.or_zero]

/-- After RESET the modelled bits of ISR read 0 (R38, R238). -/
theorem isrWord_ctrlReset_modelled (f : Word) : isrWord f Ctrl.reset &&& isrMask = 0#32 := by
  rw [isrWord_ctrlReset, BitVec.and_assoc, BitVec.and_comm (~~~isrMask), BitVec.and_not_self]
  exact BitVec.and_zero

/-- After RESET the other bits of ISR read the free word (R38). -/
theorem isrWord_ctrlReset_others (f : Word) : isrWord f Ctrl.reset &&& ~~~isrMask = f &&& ~~~isrMask := by
  rw [isrWord_ctrlReset, BitVec.and_assoc, BitVec.and_self]

/-- Settles O2: the next state is that of `resetStep`, which has the values of the reset state (R44), and of its words only ISR
depends on a free value. -/
theorem resetRestoresEngineAndController : Obligations.ResetRestoresEngineAndController := by
  intro p s hfault hmove
  obtain ⟨hhost, heng, hctl, hwire, hnoFault, hstatus, hpushed⟩ := resetLeavesSpecValues
  exact ⟨_, advance_reset hfault hmove, hhost, heng, hctl, hwire, hnoFault, hstatus, hpushed, cr2Word_ctrlReset,
    fun v => ⟨isrWord_ctrlReset_modelled v, isrWord_ctrlReset_others v⟩⟩

end Sys2Proof.Machine


/-! PROOFS. The family of statements about the whole machine. Here: what each op of CTRL does, as one update of CTRL's registers
(spec/40_frame_arbiter.md R102 to R113). -/

namespace Sys2Proof.Machine

/-! ### An op as an update of CTRL's registers -/

/-- CTRL after an op (R102 to R113); none where the op raises its fault. GO is no op and leaves CTRL alone. -/
def opCtrl (c : Ctrl) : Instr → Option Ctrl
  | .setaddr a => if c.phase = .free then some { c with sadd7 := a, saddRest := 0#3 } else none
  | .setdir d => if c.phase = .free then some { c with rdWrn := d } else none
  | .setnbytes n =>
    if c.phase = .free then some { c with nbytes := n } else if c.phase = .reloadWait then some (c.resume n) else none
  | .setautoend e => if c.phase = .free then some { c with autoend := e } else none
  | .setreload r => if r = true ∨ c.phase ≠ .reloadWait then some { c with reload := r } else none
  | .start => if c.phase = .free ∧ c.rdWrn = false then some c.openFrame else none
  | .push b => if c.txis = true then some (c.takeByte b) else none
  | .clrnack => some c.clearNack
  | .polltxis | .polltcr | .pollnack | .pollbusy | .go => some c

/-- The response of an op (R82). -/
def opReply (c : Ctrl) : Instr → Option Bool
  | .polltxis => some c.txis
  | .polltcr => some c.tcr
  | .pollnack => some c.nackf
  | .pollbusy => some c.busy
  | .setaddr _ | .setdir _ | .setnbytes _ | .setautoend _ | .setreload _ | .start | .push _ | .clrnack | .go => none

/-- What an op puts on the wire: START logs S (R107). -/
def opEvents : Instr → List WireEvent
  | .start => [.start]
  | .setaddr _ | .setdir _ | .setnbytes _ | .setautoend _ | .setreload _ | .push _ => []
  | .polltxis | .polltcr | .pollnack | .clrnack | .pollbusy | .go => []

/-- The state after an op that leaves CTRL's registers at `c`. -/
def State.afterOp (s : State) (i : Instr) (c : Ctrl) : State :=
  { s with ctl := c, wire := s.wire ++ opEvents i, resp := opReply s.ctl i }

/-- An op that logs nothing is its answer. -/
theorem State.afterOp_of_silent {s : State} {i : Instr} (h : opEvents i = []) (c : Ctrl) :
    s.afterOp i c = s.answer (opReply s.ctl i) c := by
  rw [State.afterOp, h, List.append_nil]
  rfl

/-- An op either updates CTRL's registers as `opCtrl` says, or raises a fault where `opCtrl` has no value. -/
theorem exec_op {i : Instr} (hi : i.isOp = true) (s : State) :
    (∃ c, opCtrl s.ctl i = some c ∧ exec i s = .next (s.afterOp i c)) ∨
    (opCtrl s.ctl i = none ∧ ∃ r, exec i s = .next (s.raise r)) := by
  have hguarded : ∀ {ok : Bool} {r : FaultReason} {c : Ctrl} {o : Option Ctrl}, opEvents i = [] → opReply s.ctl i = none →
      o = (if ok = true then some c else none) → guarded ok r s (s.answer none c) = exec i s →
      (∃ c, o = some c ∧ exec i s = .next (s.afterOp i c)) ∨ (o = none ∧ ∃ r, exec i s = .next (s.raise r)) := by
    intro ok r c o hev hrep ho he
    subst ho
    rw [← he]
    cases ok with
    | true => exact .inl ⟨c, rfl, by rw [State.afterOp_of_silent hev, hrep]; rfl⟩
    | false => exact .inr ⟨rfl, r, rfl⟩
  cases i with
  | setaddr a => exact hguarded rfl rfl (by simp [opCtrl]) rfl
  | setdir d => exact hguarded rfl rfl (by simp [opCtrl]) rfl
  | setautoend e => exact hguarded rfl rfl (by simp [opCtrl]) rfl
  | setreload r => exact hguarded rfl rfl (by simp [opCtrl]) rfl
  | push b => exact hguarded rfl rfl rfl rfl
  | setnbytes n =>
    cases hp : s.ctl.phase
    case free => exact .inl ⟨_, if_pos hp, by rw [exec_setnbytes_free hp, State.afterOp_of_silent rfl]; rfl⟩
    case reloadWait =>
      have hopen : s.ctl.phase ≠ .free := by simp [hp]
      exact .inl ⟨_, (if_neg hopen).trans (if_pos hp),
        by rw [exec_setnbytes_reloadWait hp, State.afterOp_of_silent rfl]; rfl⟩
    all_goals exact .inr ⟨by simp [opCtrl, hp], _, by rw [exec, execSetnbytes, hp]⟩
  | start =>
    by_cases hfree : s.ctl.phase = .free
    · cases hw : s.ctl.rdWrn with
      | false => exact .inl ⟨_, by simp [opCtrl, hfree, hw], exec_start_free hfree hw⟩
      | true => exact .inr ⟨by simp [opCtrl, hw], .startRead, by simp [exec, execStart, hfree, guarded, hw]⟩
    · exact .inr ⟨by simp [opCtrl, hfree], .startBusy, by simp [exec, execStart, hfree]⟩
  | polltxis => exact .inl ⟨_, rfl, by rw [State.afterOp_of_silent rfl]; rfl⟩
  | polltcr => exact .inl ⟨_, rfl, by rw [State.afterOp_of_silent rfl]; rfl⟩
  | pollnack => exact .inl ⟨_, rfl, by rw [State.afterOp_of_silent rfl]; rfl⟩
  | clrnack => exact .inl ⟨_, rfl, by rw [State.afterOp_of_silent rfl]; rfl⟩
  | pollbusy => exact .inl ⟨_, rfl, by rw [State.afterOp_of_silent rfl]; rfl⟩
  | go => cases hi

/-- The next state of an op. -/
theorem exec_op_inv {i : Instr} {s t : State} (hi : i.isOp = true) (h : exec i s = .next t) :
    (∃ c, opCtrl s.ctl i = some c ∧ t = s.afterOp i c) ∨ (opCtrl s.ctl i = none ∧ ∃ r, t = s.raise r) := by
  obtain ⟨c, hc, he⟩ | ⟨hc, r, he⟩ := exec_op hi s <;> cases he.symm.trans h
  · exact .inl ⟨c, hc, rfl⟩
  · exact .inr ⟨hc, r, rfl⟩

/-- An op whose update is defined has its effect. -/
theorem exec_of_opCtrl {i : Instr} {s : State} {c : Ctrl} (hi : i.isOp = true) (h : opCtrl s.ctl i = some c) :
    exec i s = .next (s.afterOp i c) := by
  obtain ⟨c', hc, he⟩ | ⟨hc, -⟩ := exec_op hi s
  · cases hc.symm.trans h; exact he
  · cases hc.symm.trans h

/-! ### What an op does to the phase -/

/-- Two values of CTRL's registers with the same phase and flags of the phase, and, while a frame is open, the same NBYTES;
no rejection is recorded anew. -/
structure Ctrl.SamePhase (c c' : Ctrl) : Prop where
  phase : c'.phase = c.phase
  busy : c'.busy = c.busy
  txis : c'.txis = c.txis
  tcr : c'.tcr = c.tcr
  nbytes : c.phase ≠ .free → c'.nbytes = c.nbytes
  nackf : c.nackf = false → c'.nackf = false

theorem Ctrl.SamePhase.refl (c : Ctrl) : c.SamePhase c := ⟨rfl, rfl, rfl, rfl, fun _ => rfl, id⟩

/-- An op leaves the phase and its flags alone, or it is one of the three that move the phase: START outside a frame, SETNBYTES
in RELOAD_WAIT, PUSH when the controller is ready (R104, R107, R113). -/
theorem opCtrl_cases {c c' : Ctrl} {i : Instr} (h : opCtrl c i = some c') :
    (c.SamePhase c' ∧ opEvents i = []) ∨ (i = .start ∧ c.phase = .free ∧ c' = c.openFrame) ∨
    (∃ n, i = .setnbytes n ∧ c.phase = .reloadWait ∧ c' = c.resume n) ∨
    (∃ b, i = .push b ∧ c.txis = true ∧ c' = c.takeByte b) := by
  have hsame : ∀ {P : Prop} [Decidable P] {d : Ctrl}, (if P then some d else none) = some c' → c.SamePhase d →
      c.SamePhase c' := by
    intro P _ d hd hs
    split_ifs at hd
    cases hd; exact hs
  cases i with
  | setaddr a => exact .inl ⟨hsame h ⟨rfl, rfl, rfl, rfl, fun _ => rfl, id⟩, rfl⟩
  | setdir d => exact .inl ⟨hsame h ⟨rfl, rfl, rfl, rfl, fun _ => rfl, id⟩, rfl⟩
  | setautoend e => exact .inl ⟨hsame h ⟨rfl, rfl, rfl, rfl, fun _ => rfl, id⟩, rfl⟩
  | setreload r => exact .inl ⟨hsame h ⟨rfl, rfl, rfl, rfl, fun _ => rfl, id⟩, rfl⟩
  | setnbytes n =>
    simp only [opCtrl] at h
    split_ifs at h with hfree hwait <;> cases h
    · exact .inl ⟨⟨rfl, rfl, rfl, rfl, fun hopen => absurd hfree hopen, id⟩, rfl⟩
    · exact .inr (.inr (.inl ⟨n, rfl, hwait, rfl⟩))
  | start =>
    simp only [opCtrl] at h
    split_ifs at h with hp
    cases h; exact .inr (.inl ⟨rfl, hp.1, rfl⟩)
  | push b =>
    simp only [opCtrl] at h
    split_ifs at h with hp
    cases h; exact .inr (.inr (.inr ⟨b, rfl, hp, rfl⟩))
  | clrnack => cases h; exact .inl ⟨⟨rfl, rfl, rfl, rfl, fun _ => rfl, fun _ => rfl⟩, rfl⟩
  | polltxis => cases h; exact .inl ⟨.refl c, rfl⟩
  | polltcr => cases h; exact .inl ⟨.refl c, rfl⟩
  | pollnack => cases h; exact .inl ⟨.refl c, rfl⟩
  | pollbusy => cases h; exact .inl ⟨.refl c, rfl⟩
  | go => cases h; exact .inl ⟨.refl c, rfl⟩

end Sys2Proof.Machine


/-! PROOFS. What a step of ENGINE does, once: the op its micro-state issues, and ENGINE's registers after the op's response
(spec/41_transfer_engine.md R154 to R168, spec/42_segment_reload.md R186 to R192). -/

namespace Sys2Proof.Machine

/-- The byte of a buffer read that gives one. -/
def BufferRead.byte? : BufferRead → Option Byte
  | .byte b => some b
  | .notAdmitted | .overlap => none

/-- The op that ENGINE's micro-state issues; none where ENGINE has no step or its buffer read gives no byte (R166, R168). -/
def engineOp (p : Params) (d : Nat) (s : State) : Option Instr :=
  match s.eng.ms with
  | .idle | .doneC | .doneR => none
  | .chkBusy => some .pollbusy
  | .setAddr => some (.setaddr s.eng.lAddr)
  | .setDir => some (.setdir false)
  | .setNbH => some (.setnbytes (headerLen s.eng))
  | .setAe => some (.setautoend true)
  | .setRl => some (.setreload true)
  | .start => some .start
  | .hNack | .pNack => some .pollnack
  | .hTx | .pTx => some .polltxis
  | .hPush => (memRead p d s s.eng.lHp s.eng.lHl (headerIndex s.eng)).byte?.map .push
  | .rpTcr => some .polltcr
  | .pSetNb => some (.setnbytes (segmentLen s.eng.rem))
  | .pClrRl => some (.setreload false)
  | .pPush => (memRead p d s s.eng.lPp s.eng.lPl (payloadIndex s.eng)).byte?.map .push
  | .rjClrN => some .clrnack
  | .rjClrRl => some (.setreload false)

/-- ENGINE's registers after the op its micro-state issues has answered `r`. -/
def Engine.turn (e : Engine) (r : Option Bool) : Engine :=
  match e.ms with
  | .idle | .doneC | .doneR => e
  | .chkBusy => if r = some true then e.reject .busBusy else e.at .setAddr
  | .setAddr => e.at .setDir
  | .setDir => e.at .setNbH
  | .setNbH => { e with seg := headerLen e, ms := .setAe }
  | .setAe => e.at .setRl
  | .setRl => e.at .start
  | .start => e.at (if e.seg = 0#8 then .rpTcr else .hNack)
  | .hNack => if r = some true then e.abandon else e.at .hTx
  | .hTx => e.at (if r = some true then .hPush else .hNack)
  | .hPush => e.headerSent
  | .rpTcr => e.at (if r = some true then .pSetNb else .rpTcr)
  | .pSetNb => { e with seg := segmentLen e.rem, ms := if isFinal e.rem then .pClrRl else .pNack }
  | .pClrRl => if e.seg = 0#8 then e.complete else e.at .pNack
  | .pNack => if r = some true then e.abandon else e.at .pTx
  | .pTx => e.at (if r = some true then .pPush else .pNack)
  | .pPush => e.payloadSent
  | .rjClrN => e.at .rjClrRl
  | .rjClrRl => e.reject e.cause

/-- A buffer read gives the byte that `byte?` finds in it. -/
theorem BufferRead.byte?_eq_some {x : BufferRead} {b : Byte} : x.byte? = some b ↔ x = .byte b := by
  cases x <;> simp [BufferRead.byte?]

/-- ENGINE issues ops of the operation port only. -/
theorem engineOp_isOp {p : Params} {d : Nat} {s : State} {i : Instr} (h : engineOp p d s = some i) : i.isOp = true := by
  cases hms : s.eng.ms <;> simp only [engineOp, hms] at h
  case idle | doneC | doneR => cases h
  case hPush => obtain ⟨b, -, rfl⟩ := Option.map_eq_some_iff.1 h; rfl
  case pPush => obtain ⟨b, -, rfl⟩ := Option.map_eq_some_iff.1 h; rfl
  all_goals cases h; rfl

/-- ENGINE's step issues the op of its micro-state and moves its registers on by the response. -/
theorem engineStep_issue {p : Params} {d : Nat} {s : State} {i : Instr} (h : engineOp p d s = some i) :
    ∃ k, engineStep p d s = issue i s k ∧ ∀ t : State, t.eng = s.eng → k t = s.eng.turn t.resp := by
  cases hms : s.eng.ms <;> simp only [engineOp, hms] at h
  case idle | doneC | doneR => cases h
  case hPush =>
    obtain ⟨b, hb, rfl⟩ := Option.map_eq_some_iff.1 h
    exact ⟨_, engineStep_hPush_byte hms (BufferRead.byte?_eq_some.1 hb), fun t ht => by simp only [Engine.turn, hms, ht]⟩
  case pPush =>
    obtain ⟨b, hb, rfl⟩ := Option.map_eq_some_iff.1 h
    exact ⟨_, engineStep_pPush_byte hms (BufferRead.byte?_eq_some.1 hb), fun t ht => by simp only [Engine.turn, hms, ht]⟩
  all_goals
    cases h
    exact ⟨_, by rw [engineStep, hms]; rfl, fun t ht => by simp only [Engine.turn, hms, ht]⟩

/-- Without an op ENGINE's step changes nothing, or is refused (R67, R68, R166). -/
theorem engineStep_none {p : Params} {d : Nat} {s t : State} (h : engineOp p d s = none) (ht : engineStep p d s = .next t) :
    t = s := by
  cases hms : s.eng.ms <;> simp only [engineOp, engineStep, hms] at h ht
  case idle | doneC | doneR => cases ht; rfl
  case hPush =>
    simp only [stepHPush] at ht
    cases hread : memRead p d s s.eng.lHp s.eng.lHl (headerIndex s.eng) <;> rw [hread] at h ht <;> cases h <;> cases ht
    rfl
  case pPush =>
    simp only [stepPPush] at ht
    cases hread : memRead p d s s.eng.lPp s.eng.lPl (payloadIndex s.eng) <;> rw [hread] at h ht <;> cases h <;> cases ht
    rfl
  all_goals cases h

/-- The state after ENGINE's op `i` has left CTRL's registers at `c` (R168). -/
def State.afterTurn (s : State) (i : Instr) (c : Ctrl) : State :=
  { s.afterOp i c with
    eng := s.eng.turn (opReply s.ctl i), trace := s.trace ++ [⟨encodeOp i, opReply s.ctl i⟩] }

/-- An op of ENGINE that raises no fault. -/
theorem engineStep_of_opCtrl {p : Params} {d : Nat} {s : State} {i : Instr} {c : Ctrl} (hs : s.fault = [])
    (hi : engineOp p d s = some i) (hc : opCtrl s.ctl i = some c) : engineStep p d s = .next (s.afterTurn i c) := by
  obtain ⟨k, hk, hturn⟩ := engineStep_issue hi
  rw [hk, issue_next (engineOp_isOp hi) (exec_of_opCtrl (engineOp_isOp hi) hc) hs, hturn (s.afterOp i c) rfl]
  rfl

/-- Everything a step of ENGINE can do with no fault recorded: nothing; one op with its effect; or one fault and no other
change. -/
theorem engineStep_inv {p : Params} {d : Nat} {s t : State} (hs : s.fault = []) (h : engineStep p d s = .next t) :
    (engineOp p d s = none ∧ t = s) ∨
    (∃ i c, engineOp p d s = some i ∧ opCtrl s.ctl i = some c ∧ t = s.afterTurn i c) ∨
    (∃ i r, engineOp p d s = some i ∧ opCtrl s.ctl i = none ∧ t = { s with fault := [r] }) := by
  cases hi : engineOp p d s with
  | none => exact .inl ⟨rfl, engineStep_none hi h⟩
  | some i =>
    refine .inr ?_
    have hop := engineOp_isOp hi
    obtain ⟨c, hc, -⟩ | ⟨hc, r, he⟩ := exec_op hop s
    · cases (engineStep_of_opCtrl hs hi hc).symm.trans h
      exact .inl ⟨i, c, rfl, hc, rfl⟩
    · obtain ⟨k, hk, -⟩ := engineStep_issue hi
      cases (hk.symm.trans h).symm.trans (issue_fault hop he (raise_fault_ne_nil s r))
      exact .inr ⟨i, r, rfl, hc, raise_of_noFault hs r⟩

end Sys2Proof.Machine


/-! PROOFS. What a step of BUS and of the whole machine does to the controller and the wire, once (spec/40_frame_arbiter.md R114
to R123), and the statements that follow from it. -/

namespace Sys2Proof.Machine

/-! ### BUS -/

/-- The event of the device's answer to the byte on the bus: the address byte in ADDR, else the byte in TXDR (R115, R116). -/
def Ctrl.byteEvent (c : Ctrl) (a : Ack) : WireEvent :=
  if c.phase = .addr then .addr c.sadd7 c.rdWrn a else .data c.txdr a

/-- In ADDR and DATA BUS's step is the device's answer. -/
theorem busStep_byte {p : Params} {a : Ack} {s : State} (h : s.ctl.phase = .addr ∨ s.ctl.phase = .data) :
    busStep p a s = answered s (s.ctl.byteEvent a) a := by
  obtain h | h := h
  · rw [busStep_addr h, Ctrl.byteEvent, if_pos h]
    rfl
  · rw [busStep_data h, Ctrl.byteEvent, if_neg (by simp [h])]
    rfl

/-- Everything a step of BUS can do (R114 to R119): nothing, a refused byte, an acknowledged one, F_AUTOEND_OFF, the end of an
empty segment, or P. -/
theorem busStep_inv {p : Params} {a : Ack} {s t : State} (h : busStep p a s = .next t) :
    (busEnabled p s = false ∧ t = s) ∨
    ((s.ctl.phase = .addr ∨ s.ctl.phase = .data) ∧ a = .nack ∧ t = (s.log (s.ctl.byteEvent a)).withCtl s.ctl.refuse) ∨
    ((s.ctl.phase = .addr ∨ s.ctl.phase = .data) ∧ a = .ack ∧
      ∃ c, s.ctl.afterAck = some c ∧ t = (s.log (s.ctl.byteEvent a)).withCtl c) ∨
    ((s.ctl.phase = .addr ∨ s.ctl.phase = .data) ∧ s.ctl.afterAck = none ∧ t = s.raise .autoendOff) ∨
    (s.ctl.phase = .segEmpty ∧ s.ctl.reload = false ∧ p.emptyFinalSegment = .stop ∧
      t = s.withCtl { s.ctl with phase := .stopping }) ∨
    ((s.ctl.phase = .stopping ∨ (s.ctl.phase = .nackHold ∧ p.nackReleasesBus = true)) ∧
      t = (s.log .stop).withCtl s.ctl.release) := by
  have hbyte : (s.ctl.phase = .addr ∨ s.ctl.phase = .data) → _ := fun hph => answered_cases ((busStep_byte hph).symm.trans h)
  obtain ⟨hph, -⟩ | ⟨hph, -⟩ | ⟨hph, hr, he, ht⟩ | ⟨hph, ht⟩ | ⟨hph, hn, ht⟩ | ⟨hen, ht⟩ := busStep_cases h
  · obtain ⟨ha, ht⟩ | ⟨c, ha, hc, ht⟩ | ⟨-, hc, ht⟩ := hbyte (.inl hph)
    · exact .inr (.inl ⟨.inl hph, ha, ht⟩)
    · exact .inr (.inr (.inl ⟨.inl hph, ha, c, hc, ht⟩))
    · exact .inr (.inr (.inr (.inl ⟨.inl hph, hc, ht⟩)))
  · obtain ⟨ha, ht⟩ | ⟨c, ha, hc, ht⟩ | ⟨-, hc, ht⟩ := hbyte (.inr hph)
    · exact .inr (.inl ⟨.inr hph, ha, ht⟩)
    · exact .inr (.inr (.inl ⟨.inr hph, ha, c, hc, ht⟩))
    · exact .inr (.inr (.inr (.inl ⟨.inr hph, hc, ht⟩)))
  · exact .inr (.inr (.inr (.inr (.inl ⟨hph, hr, he, ht⟩))))
  · exact .inr (.inr (.inr (.inr (.inr ⟨.inl hph, ht⟩))))
  · exact .inr (.inr (.inr (.inr (.inr ⟨.inr ⟨hph, hn⟩, ht⟩))))
  · exact .inl ⟨hen, ht⟩

/-- BUS touches CTRL's registers, the wire and FAULT, nothing else. -/
theorem busStep_frame {p : Params} {a : Ack} {s t : State} (h : busStep p a s = .next t) :
    ∃ c w f, t = { s with ctl := c, wire := w, fault := f } := by
  obtain ⟨-, rfl⟩ | ⟨-, -, rfl⟩ | ⟨-, -, c, -, rfl⟩ | ⟨-, -, rfl⟩ | ⟨-, -, -, rfl⟩ | ⟨-, rfl⟩ := busStep_inv h <;>
    exact ⟨_, _, _, rfl⟩

/-- Without an enabled step BUS's move changes nothing. -/
theorem busStep_disabled {p : Params} {s : State} (h : busEnabled p s = false) (a : Ack) : busStep p a s = .next s := by
  cases hph : s.ctl.phase <;> simp only [busEnabled, busStep, hph] at h ⊢
  case addr | data | stopping => cases h
  case segEmpty =>
    refine if_neg fun ⟨hr, he⟩ => ?_
    simp [hr, he] at h
  case nackHold => exact if_neg (by simp [h])

/-- Taking the move leaves BUS's enabled step. -/
@[simp] theorem busEnabled_popMove (p : Params) (s : State) : busEnabled p (popMove s) = busEnabled p s := by
  simp [busEnabled]

/-! ### HOST -/

/-- No access of HOST changes CTRL, the wire, FAULT, the response or the queue (R122). -/
theorem hostStep_frame {p : Params} {m : HostMove} {s t : State} (h : hostStep p m s = .next t) :
    t.ctl = s.ctl ∧ t.wire = s.wire ∧ t.fault = s.fault ∧ t.resp = s.resp ∧ t.script = s.script := by
  obtain ⟨h', rfl⟩ | h | ⟨v, rfl⟩ | ⟨n, a, v, rfl⟩ | rfl := hostStep_cases h
  · exact ⟨rfl, rfl, rfl, rfl, rfl⟩
  · obtain ⟨-, he⟩ | ⟨-, he⟩ := exec_go_cases s <;> cases he.symm.trans h <;> exact ⟨rfl, rfl, rfl, rfl, rfl⟩
  · exact ⟨rfl, rfl, rfl, rfl, rfl⟩
  · obtain ⟨m, st, he⟩ := storeBytes_frame p n a v s
    rw [he]
    exact ⟨rfl, rfl, rfl, rfl, rfl⟩
  · exact ⟨rfl, rfl, rfl, rfl, rfl⟩

/-! ### The whole machine -/

/-- Which move a step with a next state ran, on the state it was taken from: ENGINE's, BUS's, HOST's, RESET, or an op or a
register access of a driver of CTRL alone. -/
theorem advance_cases {p : Params} {s t : State} (h : advance p s = .next t) :
    s.fault = [] ∧
    ((∃ d, nextMove p s = .block (.engine d) ∧ engineStep p d (popMove s) = .next t) ∨
      (∃ a, nextMove p s = .block (.bus a) ∧ busStep p a (popMove s) = .next t) ∨
      (∃ m, nextMove p s = .block (.host m) ∧ hostStep p m (popMove s) = .next t) ∨
      (nextMove p s = .block .reset ∧ t = resetStep (popMove s)) ∨
      (∃ w i, nextMove p s = .opWord w ∧ i.isOp = true ∧ exec i (popMove s) = .next t) ∨
      (∃ x, nextMove p s = .ctrlAccess x ∧ ctrlAccess p x (popMove s) = .next t)) := by
  obtain ⟨hs, hrun⟩ := advance_next h
  refine ⟨hs, ?_⟩
  cases hm : nextMove p s with
  | block b =>
    rw [hm] at hrun
    cases b with
    | engine d => exact .inl ⟨d, rfl, hrun⟩
    | bus a => exact .inr (.inl ⟨a, rfl, hrun⟩)
    | host m => exact .inr (.inr (.inl ⟨m, rfl, hrun⟩))
    | reset => cases hrun; exact .inr (.inr (.inr (.inl ⟨rfl, rfl⟩)))
  | opWord w =>
    rw [hm] at hrun
    simp only [runMove, acceptOpWord] at hrun
    split at hrun
    · rename_i i hi
      exact .inr (.inr (.inr (.inr (.inl ⟨w, i, rfl, (decodeOp_instr hi).1, hrun⟩))))
    · cases hrun
  | ctrlAccess x =>
    rw [hm] at hrun
    exact .inr (.inr (.inr (.inr (.inr ⟨x, rfl, hrun⟩))))

/-- A property of CTRL's registers and the wire log that every op keeps: where the phase stays, and in the three ops that move
it. -/
structure OpClosed (P : Ctrl → List WireEvent → Prop) : Prop where
  same : ∀ {c c' w}, c.SamePhase c' → P c w → P c' w
  start : ∀ {c w}, c.phase = .free → P c w → P c.openFrame (w ++ [.start])
  resume : ∀ {c w n}, c.phase = .reloadWait → P c w → P (c.resume n) w
  push : ∀ {c w b}, c.txis = true → P c w → P (c.takeByte b) w

section OpClosed

variable {P Q : Ctrl → List WireEvent → Prop} {p : Params} {s t : State}

/-- What every op keeps, an op's update keeps. -/
theorem OpClosed.opCtrl (hP : OpClosed P) {i : Instr} {c c' : Ctrl} {w : List WireEvent} (h : opCtrl c i = some c')
    (hs : P c w) : P c' (w ++ opEvents i) := by
  obtain ⟨hsame, hev⟩ | ⟨rfl, hph, rfl⟩ | ⟨n, rfl, hph, rfl⟩ | ⟨b, rfl, hx, rfl⟩ := opCtrl_cases h
  · rw [hev, List.append_nil]
    exact hP.same hsame hs
  · exact hP.start hph hs
  · rw [opEvents, List.append_nil]
    exact hP.resume hph hs
  · rw [opEvents, List.append_nil]
    exact hP.push hx hs

/-- What every op keeps, the run of an op keeps. -/
theorem OpClosed.exec (hP : OpClosed P) {i : Instr} (hi : i.isOp = true) (h : exec i s = .next t) (hs : P s.ctl s.wire) :
    P t.ctl t.wire := by
  obtain ⟨c, hc, rfl⟩ | ⟨-, r, rfl⟩ := exec_op_inv hi h
  · exact hP.opCtrl hc hs
  · exact hs

/-- What every op keeps, ENGINE keeps. -/
theorem OpClosed.engineStep (hP : OpClosed P) {d : Nat} (hf : s.fault = []) (h : engineStep p d s = .next t)
    (hs : P s.ctl s.wire) : P t.ctl t.wire := by
  obtain ⟨-, rfl⟩ | ⟨i, c, -, hc, rfl⟩ | ⟨i, r, -, -, rfl⟩ := engineStep_inv hf h
  · exact hs
  · exact hP.opCtrl hc hs
  · exact hs

/-- What every op keeps, a driver's access keeps. -/
theorem OpClosed.ctrlAccess (hP : OpClosed P) {x : CtrlAccess} (h : ctrlAccess p x s = .next t) (hs : P s.ctl s.wire) :
    P t.ctl t.wire :=
  ctrlAccess_keeps (P := fun u => P u.ctl u.wire) (fun hi he hu => hP.exec hi he hu)
    (fun {u} hu => hP.same (c := u.ctl) ⟨rfl, rfl, rfl, rfl, fun _ => rfl, id⟩ hu) (fun _ _ hu => hu) (fun _ hu => hu) h hs

/-- What every op keeps holds after every step but BUS's and RESET; from it, and from what those two give, a property of every
step's next state. -/
theorem OpClosed.advance (hP : OpClosed P) (hPQ : ∀ {c w}, P c w → Q c w)
    (hbus : ∀ a, nextMove p s = .block (.bus a) → busStep p a (popMove s) = .next t → Q t.ctl t.wire)
    (hreset : nextMove p s = .block .reset → Q Ctrl.reset []) (h : advance p s = .next t) (hs : P s.ctl s.wire) :
    Q t.ctl t.wire := by
  have hs' : P (popMove s).ctl (popMove s).wire := by simpa using hs
  obtain ⟨hf, ⟨d, -, ht⟩ | ⟨a, hm, ht⟩ | ⟨m, -, ht⟩ | ⟨hm, rfl⟩ | ⟨w, i, -, hi, ht⟩ | ⟨x, -, ht⟩⟩ := advance_cases h
  · exact hPQ (hP.engineStep (by simpa using hf) ht hs')
  · exact hbus a hm ht
  · obtain ⟨hctl, hwire, -⟩ := hostStep_frame ht
    rw [hctl, hwire]
    exact hPQ hs'
  · exact hreset hm
  · exact hPQ (hP.exec hi ht hs')
  · exact hPQ (hP.ctrlAccess ht hs')

end OpClosed

/-! ### The invariants of C.PH (R41, R121) -/

/-- CTRL at reset meets the invariants of C.PH. -/
theorem Ctrl.reset_consistent : Ctrl.reset.Consistent := by constructor <;> decide

/-- Every op keeps the invariants of C.PH. -/
theorem consistent_opClosed : OpClosed fun c _ => c.Consistent where
  same hsame hc := by
    refine ⟨?_, ?_, ?_, fun hph => ?_⟩
    · rw [hsame.busy, hsame.phase]; exact hc.busy
    · rw [hsame.txis, hsame.phase]; exact hc.txis
    · rw [hsame.tcr, hsame.phase]; exact hc.tcr
    · rw [hsame.phase] at hph
      rw [hsame.nbytes (by simp [hph])]
      exact hc.counted hph
  start hph hc := by
    have htxis := hc.txis
    have htcr := hc.tcr
    constructor <;> simp_all
  resume {c w n} hph hc := by
    have hbusy := hc.busy
    have htxis := hc.txis
    constructor <;> by_cases hn : n = 0#8 <;> simp_all
  push hx hc := by
    have hbusy := hc.busy
    have htxis := hc.txis
    have htcr := hc.tcr
    constructor <;> simp_all

/-- BUS keeps the invariants of C.PH. -/
theorem busStep_consistent {p : Params} {a : Ack} {s t : State} (h : busStep p a s = .next t) (hc : s.ctl.Consistent) :
    t.ctl.Consistent := by
  obtain ⟨hbusy, htxis, htcr, hcounted⟩ := hc
  obtain ⟨-, rfl⟩ | ⟨hph, -, rfl⟩ | ⟨hph, -, c, hack, rfl⟩ | ⟨-, -, rfl⟩ | ⟨hph, -, -, rfl⟩ | ⟨hph, rfl⟩ := busStep_inv h
  · exact ⟨hbusy, htxis, htcr, hcounted⟩
  · constructor <;> obtain hph | hph := hph <;> simp_all
  · obtain ⟨hn, ha⟩ | ⟨hn, -, ha⟩ | ⟨hn, -, -, ha⟩ | ⟨-, -, -, ha⟩ := afterAck_cases s.ctl <;> rw [hack] at ha <;> cases ha <;>
      constructor <;> obtain hph | hph := hph <;> simp_all
  · exact ⟨hbusy, htxis, htcr, hcounted⟩
  · constructor <;> simp_all
  · constructor <;> obtain hph | ⟨hph, -⟩ := hph <;> simp_all

/-- Every step keeps the invariants of C.PH. -/
theorem advance_consistent {p : Params} {s t : State} (h : advance p s = .next t) (hc : s.ctl.Consistent) :
    t.ctl.Consistent :=
  consistent_opClosed.advance id (fun _ _ ht => busStep_consistent ht (by simpa using hc)) (fun _ => Ctrl.reset_consistent)
    h hc

/-- Settles O48: no phase is both AWAIT_TX and RELOAD_WAIT. -/
theorem controllerStaysConsistent : Obligations.ControllerStaysConsistent := by
  intro s t hc h
  have ht := advance_consistent h hc
  refine ⟨ht, fun ⟨hx, hr⟩ => ?_⟩
  cases (ht.txis.1 hx).symm.trans (ht.tcr.1 hr)

end Sys2Proof.Machine


/-! PROOFS. What every step does to the wire, to a held bus, to the rejection flag, to FAULT and to HOSTMEM. -/

namespace Sys2Proof.Machine

/-! ### The wire log is a sequence of frames (R42, R122) -/

/-- One more event takes the frame state one step on. -/
theorem frameAfter_append (f : BusFrame) (w : List WireEvent) (ev : WireEvent) :
    frameAfter f (w ++ [ev]) = (frameAfter f w).bind (·.next ev) := by
  induction w generalizing f with
  | nil => simp [frameAfter]
  | cons e w ih =>
    simp only [List.cons_append, frameAfter]
    cases f.next e <;> simp [ih]

/-- Every op keeps the wire framed as the phase says: only START logs an event, and it does so outside a frame. -/
theorem framed_opClosed : OpClosed fun c w => c.Consistent ∧ frameAfter .closed w = some c.phase.frame where
  same hsame h := ⟨consistent_opClosed.same (w := []) hsame h.1, by rw [hsame.phase]; exact h.2⟩
  start hph h := by
    refine ⟨consistent_opClosed.start (w := []) hph h.1, ?_⟩
    rw [frameAfter_append, h.2, hph]
    rfl
  resume {c w n} hph h := by
    refine ⟨consistent_opClosed.resume (w := []) hph h.1, ?_⟩
    rw [h.2, hph, Ctrl.resume_phase]
    split_ifs <;> rfl
  push hx h := by
    refine ⟨consistent_opClosed.push (w := []) hx h.1, ?_⟩
    rw [h.2, h.1.txis.1 hx]
    rfl

/-- BUS keeps the wire framed as the phase says: each event it logs is one that the phase's frame state admits. -/
theorem busStep_framed {p : Params} {a : Ack} {s t : State} (h : busStep p a s = .next t) (hs : s.wireFramed) :
    t.wireFramed := by
  have hbyte : ∀ {c : Ctrl}, s.ctl.phase = .addr ∨ s.ctl.phase = .data →
      c.phase.frame = (match a with | .ack => BusFrame.acked | .nack => .nacked) →
      ((s.log (s.ctl.byteEvent a)).withCtl c).wireFramed := by
    intro c hph hc
    rw [State.wireFramed, State.withCtl_wire, State.log_wire, frameAfter_append, hs, State.withCtl_ctl, hc]
    obtain hph | hph := hph <;> cases a <;> simp [Ctrl.byteEvent, hph, Phase.frame, BusFrame.next]
  obtain ⟨-, rfl⟩ | ⟨hph, rfl, rfl⟩ | ⟨hph, rfl, c, hc, rfl⟩ | ⟨-, -, rfl⟩ | ⟨hph, -, -, rfl⟩ | ⟨hph, rfl⟩ := busStep_inv h
  · exact hs
  · exact hbyte hph rfl
  · refine hbyte hph ?_
    obtain ⟨-, ha⟩ | ⟨-, -, ha⟩ | ⟨-, -, -, ha⟩ | ⟨-, -, -, ha⟩ := afterAck_cases s.ctl <;> cases hc.symm.trans ha <;> rfl
  · exact hs
  · rw [State.wireFramed, State.withCtl_wire, hs, hph]
    rfl
  · rw [State.wireFramed, State.withCtl_wire, State.log_wire, frameAfter_append, hs]
    obtain hph | ⟨hph, -⟩ := hph <;> rw [hph] <;> rfl

/-- Settles O49: S opens a frame where none is open, and each event of BUS continues or closes the open one. -/
theorem wireStaysFramed : Obligations.WireStaysFramed := fun s _ hc hs h =>
  framed_opClosed.advance (Q := fun c w => frameAfter .closed w = some c.phase.frame) (fun h => h.2)
    (fun _ _ ht => busStep_framed ht (by simpa [State.wireFramed] using hs)) (fun _ => rfl) h ⟨hc, hs⟩

/-! ### A held phase (R117 to R119, R123) -/

/-- In a phase that no op moves, the phase and the wire stay as they are under every op: START, SETNBYTES and PUSH move only
FREE, RELOAD_WAIT and AWAIT_TX. -/
theorem held_opClosed {ph : Phase} (w₀ : List WireEvent) (hfree : ph ≠ .free) (hwait : ph ≠ .reloadWait)
    (htx : ph ≠ .awaitTx) : OpClosed fun c w => c.Consistent ∧ c.phase = ph ∧ w = w₀ where
  same hsame h := ⟨consistent_opClosed.same (w := []) hsame h.1, hsame.phase.trans h.2.1, h.2.2⟩
  start hph h := absurd (h.2.1.symm.trans hph) hfree
  resume hph h := absurd (h.2.1.symm.trans hph) hwait
  push hx h := absurd (h.2.1.symm.trans (h.1.txis.1 hx)) htx

/-- A bus on which BUS takes no step, in a phase that no op moves, stays as it is until RESET. -/
theorem advance_held {p : Params} {s t : State} (hc : s.ctl.Consistent) (hfree : s.ctl.phase ≠ .free)
    (hwait : s.ctl.phase ≠ .reloadWait) (htx : s.ctl.phase ≠ .awaitTx)
    (hbus : ∀ a, nextMove p s = .block (.bus a) → busEnabled p s = false) (hreset : nextMove p s ≠ .block .reset)
    (h : advance p s = .next t) : t.ctl.Consistent ∧ t.ctl.phase = s.ctl.phase ∧ t.wire = s.wire := by
  refine (held_opClosed s.wire hfree hwait htx).advance id (fun a hm ht => ?_) (fun hr => absurd hr hreset) h ⟨hc, rfl, rfl⟩
  cases (busStep_disabled (by simpa using hbus a hm) a).symm.trans ht
  simpa using hc

/-- Settles O58: in neither case has BUS a step. -/
theorem heldBusStaysBusyUntilReset : Obligations.HeldBusStaysBusyUntilReset := by
  intro p s t hc hheld h hreset
  have hoff : busEnabled p s = false := by
    obtain ⟨hph, hp⟩ | ⟨hph, hp⟩ := hheld <;> simp [busEnabled, hph, hp]
  have hph : s.ctl.phase = .nackHold ∨ s.ctl.phase = .segEmpty := hheld.imp And.left And.left
  obtain ⟨hc', hph', hw⟩ : t.ctl.Consistent ∧ t.ctl.phase = s.ctl.phase ∧ t.wire = s.wire := by
    refine advance_held hc ?_ ?_ ?_ (fun _ _ => hoff) hreset h <;> obtain hph | hph := hph <;> simp [hph]
  refine ⟨hph', hc'.busy.2 ?_, hw⟩
  obtain hph | hph := hph <;> simp [hph', hph]

/-- Settles O56: the only ways out of NACK_HOLD are B_NACK_RELEASE and RESET, and in neither phase is a ready flag set. -/
theorem noReadyFlagAfterANack : Obligations.NoReadyFlagAfterANack := by
  intro p s t hc hph h
  have hc' := advance_consistent h hc
  have hph' : t.ctl.phase = .nackHold ∨ t.ctl.phase = .free := by
    refine (held_opClosed s.wire (by decide) (by decide) (by decide)).advance
      (Q := fun c _ => c.phase = .nackHold ∨ c.phase = .free) (fun h => .inl h.2.1) (fun a _ ht => ?_) (fun _ => .inr rfl) h
      ⟨hc, hph, rfl⟩
    have hpop : (popMove s).ctl.phase = .nackHold := by simpa using hph
    cases hn : p.nackReleasesBus with
    | true => cases (busStep_nackHold hpop hn).symm.trans ht; exact .inr rfl
    | false => cases (busStep_disabled (by simp [busEnabled, hph, hn]) a).symm.trans ht; exact .inl hpop
  refine ⟨hph', ?_, ?_⟩
  · exact Bool.eq_false_iff.2 fun hx => by simp [hc'.txis.1 hx] at hph'
  · exact Bool.eq_false_iff.2 fun hx => by simp [hc'.tcr.1 hx] at hph'

/-- The moves of BUS. -/
theorem Move.isBus_iff {m : Move} : m.isBus = true ↔ ∃ a, m = .block (.bus a) := by
  constructor
  · intro h
    cases m with
    | block b => cases b <;> simp_all [Move.isBus]
    | opWord w => cases h
    | ctrlAccess x => cases h
  · rintro ⟨a, rfl⟩; rfl

/-- In a run that takes neither BUS's move nor RESET from `n` on, an auto-stop that is due stays due. -/
theorem stopping_persists {p : Params} {r : Nat → State} {n : Nat} (hrun : IsRun p r) (hc : (r n).ctl.Consistent)
    (hph : (r n).ctl.phase = .stopping) (k : Nat)
    (hno : ∀ j < k, (nextMove p (r (n + j))).isBus = false ∧ nextMove p (r (n + j)) ≠ .block .reset) :
    (r (n + k)).ctl.Consistent ∧ (r (n + k)).ctl.phase = .stopping := by
  induction k with
  | zero => exact ⟨hc, hph⟩
  | succ k ih =>
    obtain ⟨hck, hpk⟩ := ih fun j hj => hno j (by omega)
    obtain ⟨hbus, hreset⟩ := hno k (by omega)
    have hno_bus : ∀ a, nextMove p (r (n + k)) = .block (.bus a) → busEnabled p (r (n + k)) = false := fun a hm => by
      rw [hm] at hbus
      cases hbus
    obtain ⟨hc', hp', -⟩ := advance_held hck (by simp [hpk]) (by simp [hpk]) (by simp [hpk]) hno_bus hreset (hrun (n + k))
    exact ⟨hc', hp'.trans hpk⟩

/-- Settles O59: until BUS's move or RESET comes the auto-stop stays due, so BUS's step stays enabled and fairness brings the
one or the other; the first of them is the point. -/
theorem autoStopComesInFairRuns : Obligations.AutoStopComesInFairRuns := by
  intro p r n hrun hfair hc hph
  by_cases hex : ∃ k, (nextMove p (r (n + k))).isBus = true ∨ nextMove p (r (n + k)) = .block .reset
  · classical
    have hfirst := Nat.find_spec hex
    have hno : ∀ j < Nat.find hex, (nextMove p (r (n + j))).isBus = false ∧ nextMove p (r (n + j)) ≠ .block .reset :=
      fun j hj => by simpa using Nat.find_min hex hj
    obtain ⟨-, hpk⟩ := stopping_persists hrun hc hph _ hno
    refine ⟨n + Nat.find hex, by omega, hpk, hfirst.symm.imp id fun hbus => ⟨hbus, ?_⟩⟩
    obtain ⟨a, ha⟩ := Move.isBus_iff.1 hbus
    obtain ⟨-, hmove⟩ := advance_next (hrun (n + Nat.find hex))
    rw [ha] at hmove
    have hstop : (popMove (r (n + Nat.find hex))).ctl.phase = .stopping := by simpa using hpk
    have hnext := Host.Outcome.next.inj ((busStep_stopping (answer := a) (p := p) hstop).symm.trans hmove)
    rw [← hnext]
    exact ⟨by simp, rfl, rfl⟩
  · obtain ⟨m, hm, hfair⟩ := hfair n
    obtain ⟨k, rfl⟩ := Nat.exists_eq_add_of_le hm
    push Not at hex
    obtain ⟨-, hpk⟩ := stopping_persists hrun hc hph k fun j _ => by simpa using hex j
    simp [busEnabled, hpk, hex k] at hfair

/-! ### The rejection flag (R36, R121) -/

/-- No op records a rejection. -/
theorem noRejection_opClosed : OpClosed fun c _ => c.nackf = false where
  same hsame h := hsame.nackf h
  start _ h := h
  resume _ h := by simpa using h
  push _ h := h

/-- The end-of-byte procedure leaves the rejection flag alone. -/
theorem afterAck_nackf {c c' : Ctrl} (h : c.afterAck = some c') : c'.nackf = c.nackf := by
  obtain ⟨-, ha⟩ | ⟨-, -, ha⟩ | ⟨-, -, -, ha⟩ | ⟨-, -, -, ha⟩ := afterAck_cases c <;> cases h.symm.trans ha <;> rfl

/-- Settles O55: of all that BUS does, only a refused byte sets the flag, and ops and RESET leave it 0. -/
theorem onlyADeviceNackSetsTheRejectionFlag : Obligations.OnlyADeviceNackSetsTheRejectionFlag := by
  intro p s t h hs ht
  refine noRejection_opClosed.advance (Q := fun c _ => c.nackf = true →
    nextMove p s = .block (.bus .nack) ∧ (s.ctl.phase = .addr ∨ s.ctl.phase = .data)) (fun h0 h1 => ?_) (fun a hm hb h1 => ?_)
    (fun _ h1 => nomatch h1) h hs ht
  · simp [h0] at h1
  · have hkept : ∀ {b : Bool}, b = s.ctl.nackf → b = true → False := fun hb' hb => by simp [hb', hs] at hb
    obtain ⟨-, rfl⟩ | ⟨hph, rfl, -⟩ | ⟨-, -, c, hc, rfl⟩ | ⟨-, -, rfl⟩ | ⟨-, -, -, rfl⟩ | ⟨-, rfl⟩ := busStep_inv hb
    · exact (hkept (by simp) h1).elim
    · exact ⟨hm, by simpa using hph⟩
    · exact (hkept (by simpa using afterAck_nackf hc) h1).elim
    · exact (hkept (by simp) h1).elim
    · exact (hkept (by simp) h1).elim
    · exact (hkept (by simp) h1).elim

/-! ### Faults and frames (R215) -/

/-- A step of ENGINE, with no fault recorded before, records one reason and changes nothing else, or records none. -/
theorem engineStep_fault {p : Params} {d : Nat} {s t : State} (hs : s.fault = []) (h : engineStep p d s = .next t) :
    t.fault = [] ∨ ∃ r, t = { s with fault := [r] } := by
  obtain ⟨-, rfl⟩ | ⟨i, c, -, -, rfl⟩ | ⟨i, r, -, -, rfl⟩ := engineStep_inv hs h
  · exact .inl hs
  · exact .inl hs
  · exact .inr ⟨r, rfl⟩

/-- A step of BUS, with no fault recorded before, records one reason and changes nothing else, or records none. -/
theorem busStep_fault {p : Params} {a : Ack} {s t : State} (hs : s.fault = []) (h : busStep p a s = .next t) :
    t.fault = [] ∨ ∃ r, t = { s with fault := [r] } := by
  obtain ⟨-, rfl⟩ | ⟨-, -, rfl⟩ | ⟨-, -, c, -, rfl⟩ | ⟨-, -, rfl⟩ | ⟨-, -, -, rfl⟩ | ⟨-, rfl⟩ := busStep_inv h
  · exact .inl hs
  · exact .inl hs
  · exact .inl hs
  · exact .inr ⟨.autoendOff, raise_of_noFault hs _⟩
  · exact .inl hs
  · exact .inl hs

/-- Settles O9, agent by agent. -/
theorem faultsAreStickyAndChangeNothingElse : Obligations.FaultsAreStickyAndChangeNothingElse := by
  refine fun p s => ⟨fun t h ht => ?_, fun hs => ?_⟩
  · obtain ⟨hs, hmove⟩ := advance_cases h
    have hs' : (popMove s).fault = [] := by simpa using hs
    refine Or.resolve_left ?_ ht
    obtain ⟨d, -, h⟩ | ⟨a, -, h⟩ | ⟨m, -, h⟩ | ⟨-, rfl⟩ | ⟨w, i, -, hi, h⟩ | ⟨x, -, h⟩ := hmove
    · exact engineStep_fault hs' h
    · exact busStep_fault hs' h
    · obtain ⟨-, -, hf, -⟩ := hostStep_frame h
      exact .inl (hf.trans hs')
    · exact .inl rfl
    · exact exec_op_fault hi hs' h
    · exact ctrlAccess_fault hs' h
  · unfold advance
    cases hf : s.fault with
    | nil => exact absurd hf hs
    | cons r rs => rfl

/-- What each op leaves unchanged in CTRL's registers and on the wire (R35, R36, R41, R42). -/
theorem opCtrl_frame {i : Instr} {c c' : Ctrl} (h : opCtrl c i = some c') :
    ((∀ a, i ≠ .setaddr a) → c'.sadd7 = c.sadd7 ∧ c'.saddRest = c.saddRest) ∧
    ((∀ d, i ≠ .setdir d) → c'.rdWrn = c.rdWrn) ∧
    ((∀ n, i ≠ .setnbytes n) → (∀ b, i ≠ .push b) → c'.nbytes = c.nbytes ∧ c'.txis = c.txis) ∧
    ((∀ e, i ≠ .setautoend e) → c'.autoend = c.autoend) ∧
    ((∀ r, i ≠ .setreload r) → c'.reload = c.reload) ∧
    ((∀ b, i ≠ .push b) → c'.txdr = c.txdr) ∧
    ((∀ n, i ≠ .setnbytes n) → c'.tcr = c.tcr) ∧
    (i ≠ .clrnack → c'.nackf = c.nackf) ∧
    (i ≠ .start → c'.busy = c.busy ∧ opEvents i = []) ∧
    ((∀ n, i ≠ .setnbytes n) → (∀ b, i ≠ .push b) → i ≠ .start → c'.phase = c.phase) := by
  cases i
  case polltxis | polltcr | pollnack | pollbusy | clrnack | go => cases h; simp [opEvents]
  all_goals
    simp only [opCtrl] at h
    split_ifs at h
    all_goals cases h; simp [opEvents]

/-- Settles O20: an op's effect is one update of CTRL, written out op by op in `opCtrl`. -/
theorem opsChangeOnlyTheirRegisters : Obligations.OpsChangeOnlyTheirRegisters := by
  intro i s t hi hs h
  obtain ⟨c, hc, rfl⟩ | ⟨-, r, rfl⟩ := exec_op_inv hi h
  · obtain ⟨hsadd, hdir, hnb, hae, hrl, htxdr, htcr, hnackf, hbusy, hphase⟩ := opCtrl_frame hc
    exact ⟨⟨rfl, rfl, fun _ => rfl, rfl, rfl, rfl, rfl, rfl⟩, hsadd, hdir, hnb, hae, hrl, htxdr, htcr, hnackf,
      fun hi => ⟨(hbusy hi).1, by simp [State.afterOp, (hbusy hi).2]⟩, hphase, fun hf => absurd hs hf⟩
  · rw [raise_of_noFault hs]
    exact ⟨⟨rfl, rfl, fun _ => rfl, rfl, rfl, rfl, rfl, rfl⟩, fun _ => ⟨rfl, rfl⟩, fun _ => rfl, fun _ _ => ⟨rfl, rfl⟩,
      fun _ => rfl, fun _ => rfl, fun _ => rfl, fun _ => rfl, fun _ => rfl, fun _ => ⟨rfl, rfl⟩, fun _ _ _ => rfl,
      fun _ => ⟨r, rfl⟩⟩

/-! ### HOSTMEM (R61) -/

/-- A HOST access keeps the canonical form. -/
theorem hostStep_wf {p : Params} {m : HostMove} {s t : State} (h : hostStep p m s = .next t) (hs : s.mem.wf) : t.mem.wf := by
  obtain ⟨h', rfl⟩ | h | ⟨v, rfl⟩ | ⟨n, a, v, rfl⟩ | rfl := hostStep_cases h
  · exact hs
  · obtain ⟨-, he⟩ | ⟨-, he⟩ := exec_go_cases s <;> cases he.symm.trans h <;> exact hs
  · exact hs
  · exact storeBytes_wf hs
  · exact hs

/-- Only HOST writes HOSTMEM: an op leaves it alone. -/
theorem exec_op_mem {i : Instr} {s t : State} (hi : i.isOp = true) (h : exec i s = .next t) : t.mem = s.mem := by
  obtain ⟨c, -, rfl⟩ | ⟨-, r, rfl⟩ := exec_op_inv hi h <;> rfl

/-- Only HOST writes HOSTMEM: ENGINE leaves it alone. -/
theorem engineStep_mem {p : Params} {d : Nat} {s t : State} (hs : s.fault = []) (h : engineStep p d s = .next t) :
    t.mem = s.mem := by
  obtain ⟨-, rfl⟩ | ⟨i, c, -, -, rfl⟩ | ⟨i, r, -, -, rfl⟩ := engineStep_inv hs h <;> rfl

/-- Settles O51: a step writes HOSTMEM by a store of HOST or not at all. -/
theorem memoryStaysCanonical : Obligations.MemoryStaysCanonical := by
  intro s t hs h
  have hs' : (popMove s).mem.wf := by simpa using hs
  obtain ⟨hf, ⟨d, -, h⟩ | ⟨a, -, h⟩ | ⟨m, -, h⟩ | ⟨-, rfl⟩ | ⟨w, i, -, hi, h⟩ | ⟨x, -, h⟩⟩ := advance_cases h
  · rw [engineStep_mem (by simpa using hf) h]; exact hs'
  · obtain ⟨c, w, f, rfl⟩ := busStep_frame h
    exact hs'
  · exact hostStep_wf h hs'
  · exact hs'
  · rw [exec_op_mem hi h]; exact hs'
  · exact ctrlAccess_keeps (P := fun u => u.mem.wf) (fun hi he hu => by rw [exec_op_mem hi he]; exact hu) id
      (fun _ _ hu => hu) (fun _ hu => hu) h hs'

end Sys2Proof.Machine


/-! PROOFS. The invariant of the block (spec/10_state.md R34, R41; spec/42_segment_reload.md R197): every step keeps it, and what
ENGINE's steps are where it holds. -/

namespace Sys2Proof.Machine

/-! ### ENGINE's counters (R34) -/

section Turn

variable (e : Engine) (r : Option Bool)

/-- ENGINE's step keeps the latched request. -/
@[simp] theorem Engine.turn_lHl : (e.turn r).lHl = e.lHl := by
  unfold Engine.turn; split <;> (try split_ifs) <;> simp
@[simp] theorem Engine.turn_lPl : (e.turn r).lPl = e.lPl := by
  unfold Engine.turn; split <;> (try split_ifs) <;> simp
@[simp] theorem Engine.turn_lHp : (e.turn r).lHp = e.lHp := by
  unfold Engine.turn; split <;> (try split_ifs) <;> simp
@[simp] theorem Engine.turn_lPp : (e.turn r).lPp = e.lPp := by
  unfold Engine.turn; split <;> (try split_ifs) <;> simp

end Turn

/-- A byte that is not 0, less 1, as a word. -/
theorem setWidth_pred {b : Byte} (h : 1 ≤ b.toNat) : (b - 1#8).setWidth 32 = b.setWidth 32 - 1#32 := by
  have := b.isLt
  apply BitVec.eq_of_toNat_eq
  simp only [BitVec.toNat_setWidth, BitVec.toNat_sub, BitVec.toNat_ofNat]
  omega

/-- A byte that is not 0 counts down to 0 or to a byte that is not 0, as numbers. -/
theorem toNat_pred {b : Byte} (h : 1 ≤ b.toNat) : (b - 1#8).toNat = b.toNat - 1 := by
  have := b.isLt
  simp only [BitVec.toNat_sub, BitVec.toNat_ofNat]
  omega

/-- A word that is not 0, less 1, as a number. -/
theorem toNat_pred_word {w : Word} (h : 1 ≤ w.toNat) : (w - 1#32).toNat = w.toNat - 1 := by
  have := w.isLt
  simp only [BitVec.toNat_sub, BitVec.toNat_ofNat]
  omega

/-- A header of at most 255 bytes has the length its SETNBYTES operand says (R157). -/
theorem headerLen_toNat {e : Engine} (h : e.lHl.toNat ≤ 255) : (headerLen e).toNat = e.lHl.toNat := by
  simp only [headerLen, BitVec.toNat_setWidth]
  omega

theorem headerLen_setWidth {e : Engine} (h : e.lHl.toNat ≤ 255) : (headerLen e).setWidth 32 = e.lHl :=
  BitVec.eq_of_toNat_eq (by rw [toNat_setWidth_word, headerLen_toNat h])

/-- ENGINE's registers moved on within a request, REM unchanged. -/
theorem Engine.Counted.moved {e e' : Engine} (h : e.Counted) (hactive : e.ms.active = true) (hlHl : e'.lHl = e.lHl)
    (hlPl : e'.lPl = e.lPl) (hrem : e'.rem = e.rem) (hcnt : e'.countedIn e'.ms) : e'.Counted :=
  ⟨by rw [hrem, hlPl]; exact h.remLe, fun _ => by rw [hlHl]; exact h.headerLe hactive, hcnt⟩

/-- The counters after START (R160). -/
theorem counted_start {e : Engine} (h : e.Counted) (hms : e.ms = .start) :
    (e.at (if e.seg = 0#8 then .rpTcr else .hNack)).Counted := by
  have hactive : e.ms.active = true := by rw [hms]; rfl
  obtain ⟨hund, hseg, hpushed, hrem⟩ : e.countedIn .start := hms ▸ h.counters
  have hlen := h.headerLe hactive
  have hall : e.seg.setWidth 32 = e.lHl := hseg ▸ headerLen_setWidth hlen
  refine h.moved hactive rfl rfl rfl ?_
  split_ifs with hzero
  · have hempty : e.lHl = 0#32 := by rw [← hall, hzero]; rfl
    exact ⟨hund, hzero, .inr hrem, by simp [hpushed, hempty, hrem]⟩
  · exact ⟨hund, byte_pos hzero, by rw [Engine.at_seg, hseg, headerLen_toNat hlen]; exact le_rfl,
      by simp [hpushed, hall], hrem⟩

/-- The counters after a header byte (R163). -/
theorem counted_headerSent {e : Engine} (h : e.Counted) (hms : e.ms = .hPush) : e.headerSent.Counted := by
  obtain ⟨hund, hpos, hle, hpushed, hrem⟩ : e.countedIn .hPush := hms ▸ h.counters
  have hpushed' : e.headerSent.pushed = e.lHl - (e.seg - 1#8).setWidth 32 := by
    rw [Engine.headerSent_pushed, hpushed, setWidth_pred hpos]; ring
  refine h.moved (by rw [hms]; rfl) rfl rfl rfl ?_
  rw [Engine.headerSent_ms]
  split_ifs with hzero
  · exact ⟨hund, hzero, .inr hrem, by rw [hpushed', hzero]; simp [hrem]⟩
  · exact ⟨hund, byte_pos hzero, by simp [toNat_pred hpos]; omega, hpushed', hrem⟩

/-- The counters after a segment is programmed (R187, R188). -/
theorem counted_segment {e : Engine} (h : e.Counted) (hms : e.ms = .pSetNb) :
    Engine.Counted { e with seg := segmentLen e.rem, ms := if isFinal e.rem then .pClrRl else .pNack } := by
  obtain ⟨hund, hseg, hsome, hpushed⟩ : e.countedIn .pSetNb := hms ▸ h.counters
  refine h.moved (by rw [hms]; rfl) rfl rfl rfl ?_
  have hlen := segmentLen_toNat e.rem
  split_ifs with hfinal
  · exact ⟨hund, (isFinal_iff_eq e.rem).1 hfinal, hsome, hpushed⟩
  · have hmore := mt (isFinal_iff e.rem).2 hfinal
    exact ⟨hund, by show 1 ≤ (segmentLen e.rem).toNat; omega, by show (segmentLen e.rem).toNat ≤ e.rem.toNat; omega, hpushed⟩

/-- The counters after reload is cleared for the final segment (R189). -/
theorem counted_cleared {e : Engine} (h : e.Counted) (hms : e.ms = .pClrRl) :
    (if e.seg = 0#8 then e.complete else e.at .pNack).Counted := by
  have hactive : e.ms.active = true := by rw [hms]; rfl
  obtain ⟨hund, hseg, hsome, hpushed⟩ : e.countedIn .pClrRl := hms ▸ h.counters
  split_ifs with hzero
  · have hrem : e.rem = 0#32 := by rw [← hseg, hzero]; rfl
    exact h.moved hactive rfl rfl rfl ⟨hrem, hzero, rfl, hund.2, by simpa [hrem] using hpushed⟩
  · exact h.moved hactive rfl rfl rfl
      ⟨hund, byte_pos hzero, by rw [Engine.at_seg, Engine.at_rem, ← hseg, toNat_setWidth_word], hpushed⟩

/-- The counters after a payload byte (R192). -/
theorem counted_payloadSent {e : Engine} (h : e.Counted) (hms : e.ms = .pPush) : e.payloadSent.Counted := by
  obtain ⟨⟨hout, hcause⟩, hpos, hle, hpushed⟩ : e.countedIn .pPush := hms ▸ h.counters
  have hrem := toNat_pred_word (w := e.rem) (by omega)
  have hpushed' : e.pushed + 1#32 = e.lHl + e.lPl - (e.rem - 1#32) := by rw [hpushed]; ring
  refine ⟨?_, fun _ => ?_, ?_⟩
  · have := h.remLe
    rw [Engine.payloadSent_rem, Engine.payloadSent_lPl, hrem]; omega
  · rw [Engine.payloadSent_lHl]; exact h.headerLe (by rw [hms]; rfl)
  · by_cases hseg : e.seg - 1#8 = 0#8
    · by_cases hlast : e.rem - 1#32 = 0#32
      · simp [Engine.payloadSent_eq, Engine.countedIn, hseg, hlast, hcause, hpushed']
      · simp [Engine.payloadSent_eq, Engine.countedIn, Engine.inReload, Engine.undecided, hseg, hlast, hout, hcause, hpushed']
    · have hmore := byte_pos hseg
      have hseg' := toNat_pred hpos
      simp only [Engine.payloadSent_eq, Engine.countedIn, Engine.inPayload, Engine.undecided, hseg, hout, hcause, hpushed',
        ne_eq, not_false_eq_true, if_true, false_and, if_false, true_and, and_true, hrem, hseg']
      omega

/-- ENGINE's invariants after the op of its micro-state, whatever the response. -/
theorem turn_counted {e : Engine} (h : e.Counted) (r : Option Bool) : (e.turn r).Counted := by
  cases hms : e.ms <;> simp only [Engine.turn, hms]
  case idle | doneC | doneR => exact h
  case start => exact counted_start h hms
  case hPush => exact counted_headerSent h hms
  case pSetNb => exact counted_segment h hms
  case pClrRl => exact counted_cleared h hms
  case pPush => exact counted_payloadSent h hms
  all_goals
    have hactive : e.ms.active = true := by rw [hms]; rfl
    have hcnt := h.counters
    rw [hms] at hcnt
  case chkBusy =>
    split_ifs
    · obtain ⟨⟨hout, -⟩, -⟩ := hcnt
      exact h.moved hactive rfl rfl rfl ⟨hout, nofun⟩
    · exact h.moved hactive rfl rfl rfl hcnt
  case setNbH =>
    obtain ⟨hund, -, hsent⟩ := hcnt
    exact h.moved hactive rfl rfl rfl ⟨hund, rfl, hsent⟩
  case hNack | pNack =>
    split_ifs
    · obtain ⟨⟨hout, -⟩, -⟩ := hcnt
      exact h.moved hactive rfl rfl rfl ⟨hout, rfl⟩
    · exact h.moved hactive rfl rfl rfl hcnt
  case hTx | pTx | rpTcr => split_ifs <;> exact h.moved hactive rfl rfl rfl hcnt
  case rjClrRl =>
    obtain ⟨hout, hcause⟩ := hcnt
    exact h.moved hactive rfl rfl rfl ⟨hout, by simp [hcause]⟩
  all_goals exact h.moved hactive rfl rfl rfl hcnt

/-! ### ENGINE's ops and the controller (R197, R215) -/

section Linked

variable {e e' : Engine} {c : Ctrl}

/-- Outside a frame only the stage links ENGINE and the controller. -/
theorem linked_of_free (hph : c.phase = .free) (h : linkedIn e c e.ms) : Linked e c :=
  ⟨fun hopen => absurd hph hopen, fun hwait => by simp [hph] at hwait, h⟩

/-- ENGINE moves on and the controller stays. -/
theorem Linked.moved (h : Linked e c) (hstage : linkedIn e' c e'.ms) : Linked e' c := ⟨h.armed, h.waiting, hstage⟩

/-- ENGINE moves on and reload is cleared, outside RELOAD_WAIT. -/
theorem Linked.reloadCleared (h : Linked e c) (hph : c.phase ≠ .reloadWait)
    (hstage : linkedIn e' { c with reload := false } e'.ms) : Linked e' { c with reload := false } :=
  ⟨h.armed, fun hwait => absurd hwait hph, hstage⟩

/-- ENGINE moves on and the controller takes a byte. -/
theorem Linked.byteTaken (h : Linked e c) (hph : c.phase = .awaitTx) {b : Byte}
    (hstage : linkedIn e' (c.takeByte b) e'.ms) : Linked e' (c.takeByte b) :=
  ⟨fun _ => h.armed (by simp [hph]), fun hwait => by simp at hwait, hstage⟩

/-- After an ACK is polled as refused the exit begins (R161, R190). -/
theorem exiting_of_inSegment {seg : Byte} (h : c.inSegment seg) (hseg : 1 ≤ seg.toNat) : c.exiting := by
  obtain ⟨hph, hn⟩ | ⟨hph, -⟩ := h
  · refine .inl ⟨hph, ?_⟩
    rintro hz
    rw [← hn, hz] at hseg
    simp at hseg
  · exact .inr hph

/-- A byte wait that finds TXIS set has the controller waiting for the byte (R162, R191). -/
theorem awaitTx_of_inSegment {seg : Byte} (h : c.inSegment seg) (hph : c.phase = .awaitTx) : c.nbytes = seg := by
  obtain ⟨-, hn⟩ | ⟨hph', -⟩ := h
  · exact hn
  · simp [hph] at hph'

/-- After START (R160). -/
theorem linked_start (h : Linked e c) (hms : e.ms = .start) :
    Linked (e.at (if e.seg = 0#8 then .rpTcr else .hNack)) c.openFrame := by
  obtain ⟨hrl, hph, hwr, hn, hae⟩ : linkedIn e c .start := hms ▸ h.stage
  refine ⟨fun _ => ⟨hae, hwr⟩, fun hwait => by simp at hwait, ?_⟩
  rw [Engine.at_ms]
  split_ifs with hzero
  · exact ⟨hrl, .inl ⟨.inl rfl, hn.trans hzero⟩⟩
  · exact ⟨hrl, .inl ⟨.inl rfl, hn⟩⟩

/-- After a header byte (R163). -/
theorem linked_headerSent (h : Linked e c) (hms : e.ms = .hPush) (b : Byte) : Linked e.headerSent (c.takeByte b) := by
  obtain ⟨hrl, hph, hn⟩ : linkedIn e c .hPush := hms ▸ h.stage
  refine h.byteTaken hph ?_
  rw [Engine.headerSent_ms]
  split_ifs with hzero
  · exact ⟨hrl, .inl ⟨.inr (.inl rfl), by rw [Ctrl.takeByte_nbytes, hn, hzero]⟩⟩
  · exact ⟨hrl, .inl ⟨.inr (.inr rfl), by rw [Ctrl.takeByte_nbytes, hn]; rfl⟩⟩

/-- After a segment is programmed (R187, R188). -/
theorem linked_segment (h : Linked e c) (hms : e.ms = .pSetNb) :
    Linked { e with seg := segmentLen e.rem, ms := if isFinal e.rem then .pClrRl else .pNack }
      (c.resume (segmentLen e.rem)) := by
  obtain ⟨hrl, hph⟩ : linkedIn e c .pSetNb := hms ▸ h.stage
  have hrl' : (c.resume (segmentLen e.rem)).reload = true := by simpa using hrl
  refine ⟨fun _ => by simpa using h.armed (by simp [hph]), fun _ => hrl', ?_⟩
  by_cases hfinal : isFinal e.rem = true
  · simp only [hfinal, if_true]
    refine ⟨hrl', by simp, ?_⟩
    by_cases hzero : segmentLen e.rem = 0#8
    · exact .inr ⟨by simp [hzero], hzero⟩
    · exact .inl ⟨by simp [hzero], hzero⟩
  · have hne := mt (isFinal_iff_eq e.rem).2 hfinal
    have hzero : segmentLen e.rem ≠ 0#8 := fun hz => hne (by rw [hz, (segmentLen_eq_zero_iff e.rem).1 hz]; rfl)
    simp only [hfinal]
    exact ⟨by simp [hrl, hne], by simp [hzero], .inl ⟨by simp [hzero], by simp⟩⟩

/-- After reload is cleared for the final segment (R189). -/
theorem linked_cleared (h : Linked e c) (hms : e.ms = .pClrRl) (hfinal : e.seg.setWidth 32 = e.rem) :
    c.phase ≠ .reloadWait ∧ Linked (if e.seg = 0#8 then e.complete else e.at .pNack) { c with reload := false } := by
  obtain ⟨-, hn, hph⟩ : linkedIn e c .pClrRl := hms ▸ h.stage
  have hwait : c.phase ≠ .reloadWait := by obtain ⟨h, -⟩ | ⟨h, -⟩ := hph <;> simp [h]
  refine ⟨hwait, h.reloadCleared hwait ?_⟩
  split_ifs with hzero
  · rfl
  · obtain ⟨hph, -⟩ | ⟨-, hz⟩ := hph
    · exact ⟨by simp [hfinal], by simp [hph], .inl ⟨.inr (.inl hph), hn⟩⟩
    · exact absurd hz hzero

/-- After a payload byte (R192): reload stays clear in the final segment, and set in one that is not. -/
theorem linked_payloadSent (h : Linked e c) (hms : e.ms = .pPush) (hpos : 1 ≤ e.seg.toNat) (b : Byte) :
    Linked e.payloadSent (c.takeByte b) := by
  obtain ⟨hfinal, hph, hn⟩ : linkedIn e c .pPush := hms ▸ h.stage
  refine h.byteTaken hph ?_
  have hsub : (e.seg - 1#8).setWidth 32 = e.rem - 1#32 ↔ e.seg.setWidth 32 = e.rem := by
    rw [setWidth_pred hpos]; exact sub_left_inj
  by_cases hseg : e.seg - 1#8 = 0#8
  · by_cases hrem : e.rem - 1#32 = 0#32
    · simp only [Engine.payloadSent_ms, hseg, hrem, ne_eq, not_true_eq_false, if_false]
      exact hfinal.2 (hsub.1 (by rw [hseg, hrem]; rfl))
    · simp only [Engine.payloadSent_ms, hseg, hrem, ne_eq, not_true_eq_false, not_false_eq_true, if_false, if_true]
      have hmore : ¬ c.reload = false := fun hr => hrem (by rw [← hsub.2 (hfinal.1 hr), hseg]; rfl)
      exact ⟨by simpa using hmore, .inl ⟨.inr (.inl rfl), by rw [Ctrl.takeByte_nbytes, hn, hseg]⟩⟩
  · simp only [Engine.payloadSent_ms, hseg, ne_eq, not_false_eq_true, if_true]
    exact ⟨by simp [hfinal, hsub], by simp, .inl ⟨.inr (.inr rfl), by simp [hn]⟩⟩

end Linked

/-- The block's invariant (R34, R41, R197) without the premise on who moves: ENGINE and the controller are in step. -/
structure State.Coupled (s : State) : Prop where
  noFault : s.fault = []
  ctrl : s.ctl.Consistent
  engine : s.eng.Counted
  link : Linked s.eng s.ctl

theorem State.Sound.coupled {s : State} (hs : s.Sound) : s.Coupled := ⟨hs.noFault, hs.ctrl, hs.engine, hs.link⟩

theorem State.Coupled.sound {s : State} (hs : s.Coupled) (hclosed : s.closed) : s.Sound :=
  ⟨hs.noFault, hclosed, hs.ctrl, hs.engine, hs.link⟩

/-- The controller takes the op that ENGINE issues, so it raises no fault (R215), and the link holds again
after it. -/
theorem State.Coupled.turn {p : Params} {d : Nat} {s : State} {i : Instr} (hs : s.Coupled) (hi : engineOp p d s = some i) :
    ∃ c, opCtrl s.ctl i = some c ∧ Linked (s.eng.turn (opReply s.ctl i)) c := by
  have hlink := hs.link
  have hstage := hlink.stage
  have hcnt := hs.engine.counters
  cases hms : s.eng.ms <;> simp only [engineOp, hms] at hi <;> rw [hms] at hstage hcnt <;> simp only [Engine.turn, hms]
  case idle | doneC | doneR => cases hi
  case hPush =>
    obtain ⟨b, -, rfl⟩ := Option.map_eq_some_iff.1 hi
    obtain ⟨-, hph, -⟩ := hstage
    exact ⟨_, if_pos (hs.ctrl.txis.2 hph), linked_headerSent hlink hms b⟩
  case pPush =>
    obtain ⟨b, -, rfl⟩ := Option.map_eq_some_iff.1 hi
    obtain ⟨-, hph, -⟩ := hstage
    obtain ⟨-, hpos, -⟩ := hcnt
    exact ⟨_, if_pos (hs.ctrl.txis.2 hph), linked_payloadSent hlink hms hpos b⟩
  all_goals cases hi
  case chkBusy =>
    refine ⟨_, rfl, ?_⟩
    cases hbusy : s.ctl.busy with
    | true => exact hlink.moved (by simpa [opReply, hbusy, linkedIn] using hstage)
    | false =>
      have hfree : s.ctl.phase = .free := by simpa [hbusy] using hs.ctrl.busy
      exact linked_of_free hfree (by simpa [opReply, hbusy, linkedIn, hfree] using hstage)
  case setAddr =>
    obtain ⟨hrl, hph⟩ := hstage
    exact ⟨_, if_pos hph, linked_of_free hph ⟨hrl, hph⟩⟩
  case setDir =>
    obtain ⟨hrl, hph⟩ := hstage
    exact ⟨_, if_pos hph, linked_of_free hph ⟨hrl, hph, rfl⟩⟩
  case setNbH =>
    obtain ⟨hrl, hph, hwr⟩ := hstage
    exact ⟨_, if_pos hph, linked_of_free hph ⟨hrl, hph, hwr, rfl⟩⟩
  case setAe =>
    obtain ⟨hrl, hph, hwr, hn⟩ := hstage
    exact ⟨_, if_pos hph, linked_of_free hph ⟨hrl, hph, hwr, hn, rfl⟩⟩
  case setRl =>
    obtain ⟨-, hph, hwr, hn, hae⟩ := hstage
    exact ⟨{ s.ctl with reload := true }, by simp [Machine.opCtrl], linked_of_free hph ⟨rfl, hph, hwr, hn, hae⟩⟩
  case start =>
    obtain ⟨-, hph, hwr, -⟩ := hstage
    exact ⟨_, if_pos ⟨hph, hwr⟩, linked_start hlink hms⟩
  case hNack =>
    obtain ⟨hrl, hin⟩ := hstage
    obtain ⟨-, hpos, -⟩ := hcnt
    refine ⟨_, rfl, ?_⟩
    split_ifs
    · exact hlink.moved (exiting_of_inSegment hin hpos)
    · exact hlink.moved ⟨hrl, hin⟩
  case pNack =>
    obtain ⟨hrl, hph, hin⟩ := hstage
    obtain ⟨-, hpos, -⟩ := hcnt
    refine ⟨_, rfl, ?_⟩
    split_ifs
    · exact hlink.moved (exiting_of_inSegment hin hpos)
    · exact hlink.moved ⟨hrl, hph, hin⟩
  case hTx =>
    obtain ⟨hrl, hin⟩ := hstage
    refine ⟨_, rfl, hlink.moved ?_⟩
    rw [Engine.at_ms]
    split_ifs with hx
    · have hph := hs.ctrl.txis.1 (by simpa [opReply] using hx)
      exact ⟨hrl, hph, awaitTx_of_inSegment hin hph⟩
    · exact ⟨hrl, hin⟩
  case pTx =>
    obtain ⟨hrl, hph, hin⟩ := hstage
    refine ⟨_, rfl, hlink.moved ?_⟩
    rw [Engine.at_ms]
    split_ifs with hx
    · have hph := hs.ctrl.txis.1 (by simpa [opReply] using hx)
      exact ⟨hrl, hph, awaitTx_of_inSegment hin hph⟩
    · exact ⟨hrl, hph, hin⟩
  case rpTcr =>
    refine ⟨_, rfl, hlink.moved ?_⟩
    rw [Engine.at_ms]
    split_ifs with hx
    · have hph := hs.ctrl.tcr.1 (by simpa [opReply] using hx)
      exact ⟨hlink.waiting hph, hph⟩
    · exact hstage
  case pSetNb =>
    obtain ⟨-, hph⟩ := hstage
    exact ⟨_, (if_neg (by simp [hph])).trans (if_pos hph), linked_segment hlink hms⟩
  case pClrRl =>
    obtain ⟨-, hfinal, -⟩ := hcnt
    obtain ⟨hph, hlinked⟩ := linked_cleared hlink hms hfinal
    exact ⟨_, if_pos (Or.inr hph), hlinked⟩
  case rjClrN => exact ⟨_, rfl, hlink.armed, hlink.waiting, hstage⟩
  case rjClrRl =>
    have hph : s.ctl.phase ≠ .reloadWait := by obtain ⟨h | h | h, -⟩ | h | h := hstage <;> simp [h]
    exact ⟨_, if_pos (Or.inr hph), hlink.reloadCleared hph rfl⟩

/-- Everything a step of ENGINE can do where it is in step with the controller: nothing, or one op with its effect. -/
theorem State.Coupled.engineStep {p : Params} {d : Nat} {s t : State} (hs : s.Coupled) (h : engineStep p d s = .next t) :
    (engineOp p d s = none ∧ t = s) ∨
    (∃ i c, engineOp p d s = some i ∧ opCtrl s.ctl i = some c ∧ t = s.afterTurn i c) := by
  obtain h | h | ⟨i, r, hi, hc, -⟩ := engineStep_inv hs.noFault h
  · exact .inl h
  · exact .inr h
  · obtain ⟨c, hc', -⟩ := hs.turn hi
    cases hc.symm.trans hc'

/-- ENGINE's op keeps ENGINE and the controller in step. -/
theorem State.Coupled.afterTurn {p : Params} {d : Nat} {s : State} {i : Instr} {c : Ctrl} (hs : s.Coupled)
    (hi : engineOp p d s = some i) (hc : opCtrl s.ctl i = some c) : (s.afterTurn i c).Coupled := by
  obtain ⟨c', hc', hlink⟩ := hs.turn hi
  cases hc.symm.trans hc'
  exact ⟨hs.noFault, consistent_opClosed.opCtrl (w := []) hc hs.ctrl, turn_counted hs.engine _, hlink⟩

/-- ENGINE keeps a sound state sound. -/
theorem engineStep_sound {p : Params} {d : Nat} {s t : State} (hs : s.Sound) (h : engineStep p d s = .next t) : t.Sound := by
  obtain ⟨-, rfl⟩ | ⟨i, c, hi, hc, rfl⟩ := hs.coupled.engineStep h
  · exact hs
  · exact (hs.coupled.afterTurn hi hc).sound hs.closed

/-! ### BUS's steps and the link -/

section BusLink

variable {p : Params} {a : Ack} {s t : State}

/-- BUS writes the flags and the phase, none of the fields that ops program (R35). -/
theorem busStep_fields (h : busStep p a s = .next t) :
    t.ctl.reload = s.ctl.reload ∧ t.ctl.autoend = s.ctl.autoend ∧ t.ctl.rdWrn = s.ctl.rdWrn ∧
    t.ctl.nbytes = s.ctl.nbytes := by
  obtain ⟨-, rfl⟩ | ⟨-, -, rfl⟩ | ⟨-, -, c, hc, rfl⟩ | ⟨-, -, rfl⟩ | ⟨-, -, -, rfl⟩ | ⟨-, rfl⟩ := busStep_inv h
  case inr.inr.inl =>
    obtain ⟨-, ha⟩ | ⟨-, -, ha⟩ | ⟨-, -, -, ha⟩ | ⟨-, -, -, ha⟩ := afterAck_cases s.ctl <;> cases hc.symm.trans ha <;>
      exact ⟨rfl, rfl, rfl, rfl⟩
  all_goals exact ⟨rfl, rfl, rfl, rfl⟩

/-- Where BUS's step takes the phase, with the bytes still to come and the rejection flag (R114 to R119). -/
theorem busStep_phase (h : busStep p a s = .next t) :
    t.ctl = s.ctl ∨
    ((s.ctl.phase = .addr ∨ s.ctl.phase = .data) ∧
      ((t.ctl.phase = .nackHold ∧ t.ctl.nackf = true) ∨ (t.ctl.phase = .awaitTx ∧ s.ctl.nbytes ≠ 0#8) ∨
        (t.ctl.phase = .reloadWait ∧ s.ctl.nbytes = 0#8 ∧ s.ctl.reload = true) ∨
        (t.ctl.phase = .stopping ∧ s.ctl.nbytes = 0#8 ∧ s.ctl.reload = false))) ∨
    (s.ctl.phase = .segEmpty ∧ s.ctl.reload = false ∧ t.ctl.phase = .stopping) ∨
    ((s.ctl.phase = .stopping ∨ s.ctl.phase = .nackHold) ∧ t.ctl.phase = .free ∧ t.ctl.nackf = s.ctl.nackf) := by
  obtain ⟨-, rfl⟩ | ⟨hph, -, rfl⟩ | ⟨hph, -, c, hc, rfl⟩ | ⟨-, -, rfl⟩ | ⟨hph, hr, -, rfl⟩ | ⟨hph, rfl⟩ := busStep_inv h
  · exact .inl rfl
  · exact .inr (.inl ⟨hph, .inl ⟨rfl, rfl⟩⟩)
  · refine .inr (.inl ⟨hph, .inr ?_⟩)
    obtain ⟨hn, ha⟩ | ⟨hn, hr, ha⟩ | ⟨hn, hr, -, ha⟩ | ⟨-, -, -, ha⟩ := afterAck_cases s.ctl <;> cases hc.symm.trans ha
    · exact .inl ⟨rfl, hn⟩
    · exact .inr (.inl ⟨rfl, hn, hr⟩)
    · exact .inr (.inr ⟨rfl, hn, hr⟩)
  · exact .inl rfl
  · exact .inr (.inr (.inl ⟨hph, hr, rfl⟩))
  · exact .inr (.inr (.inr ⟨hph.imp id And.left, rfl, rfl⟩))

/-- A byte wait stays one: an ACK asks for the next byte, a NACK sets the flag. -/
theorem busStep_inSegment (h : busStep p a s = .next t) {seg : Byte} (hpos : 1 ≤ seg.toNat) (hin : s.ctl.inSegment seg) :
    t.ctl.inSegment seg := by
  obtain ⟨-, -, -, hn⟩ := busStep_fields h
  have hseg : seg ≠ 0#8 := fun hz => by simp [hz] at hpos
  obtain hs | ⟨hph, hto⟩ | ⟨hph, -⟩ | ⟨hph, hto⟩ := busStep_phase h
  · rw [Ctrl.inSegment, hs]; exact hin
  · obtain ⟨-, hbytes⟩ | ⟨hph', -⟩ := hin
    · obtain hto | ⟨hto, -⟩ | ⟨-, hz, -⟩ | ⟨-, hz, -⟩ := hto
      · exact .inr ⟨.inl hto.1, hto.2⟩
      · exact .inl ⟨.inr (.inl hto), hn.trans hbytes⟩
      · exact absurd (hbytes.symm.trans hz) hseg
      · exact absurd (hbytes.symm.trans hz) hseg
    · obtain hph | hph := hph <;> simp [hph] at hph'
  · obtain ⟨hph', -⟩ | ⟨hph', -⟩ := hin <;> simp [hph] at hph'
  · obtain ⟨hph', -⟩ | ⟨-, hflag⟩ := hin
    · obtain hph | hph := hph <;> simp [hph] at hph'
    · exact .inr ⟨.inr hto.1, hto.2.trans hflag⟩

/-- A reload wait stays one (R186). -/
theorem busStep_endOfSegment (h : busStep p a s = .next t) (hin : s.ctl.endOfSegment) : t.ctl.endOfSegment := by
  obtain ⟨hr, -, -, hn⟩ := busStep_fields h
  obtain ⟨hreload, hin⟩ := hin
  refine ⟨hr.trans hreload, ?_⟩
  obtain hs | ⟨hph, hto⟩ | ⟨hph, -⟩ | ⟨hph, hto⟩ := busStep_phase h
  · rw [hs]; exact hin
  · obtain ⟨-, hbytes⟩ | ⟨hph', -⟩ := hin
    · obtain hto | ⟨-, hnz⟩ | ⟨hto, -⟩ | ⟨-, -, hoff⟩ := hto
      · exact .inr ⟨.inl hto.1, hto.2⟩
      · exact absurd hbytes hnz
      · exact .inl ⟨.inr (.inr hto), hn.trans hbytes⟩
      · simp [hreload] at hoff
    · obtain hph | hph := hph <;> simp [hph] at hph'
  · obtain ⟨hph', -⟩ | ⟨hph', -⟩ := hin <;> simp [hph] at hph'
  · obtain ⟨hph', -⟩ | ⟨-, hflag⟩ := hin
    · obtain hph | hph := hph <;> simp [hph] at hph'
    · exact .inr ⟨.inr hto.1, hto.2.trans hflag⟩

/-- The rejection exit's phases stay among themselves (R165). -/
theorem busStep_exiting (h : busStep p a s = .next t) (hin : s.ctl.exiting) : t.ctl.exiting := by
  obtain ⟨-, -, -, hn⟩ := busStep_fields h
  obtain hs | ⟨hph, hto⟩ | ⟨hph, -⟩ | ⟨-, hto, -⟩ := busStep_phase h
  · rw [Ctrl.exiting, hs]; exact hin
  · obtain hto | ⟨hto, hnz⟩ | ⟨-, hz, -⟩ | ⟨-, hz, -⟩ := hto
    · exact .inr (.inl hto.1)
    · exact .inl ⟨.inr (.inl hto), by rw [hn]; exact hnz⟩
    · obtain ⟨-, hnz⟩ | hph' := hin
      · exact absurd hz hnz
      · obtain hph | hph := hph <;> simp [hph] at hph'
    · obtain ⟨-, hnz⟩ | hph' := hin
      · exact absurd hz hnz
      · obtain hph | hph := hph <;> simp [hph] at hph'
  · obtain ⟨hph', -⟩ | hph' := hin <;> simp [hph] at hph'
  · exact .inr (.inr hto)

/-- In a phase in which BUS has no step, CTRL stays as it is. -/
theorem busStep_idle (h : busStep p a s = .next t)
    (hph : s.ctl.phase = .free ∨ s.ctl.phase = .awaitTx ∨ s.ctl.phase = .reloadWait) : t.ctl = s.ctl := by
  obtain hs | ⟨hph', -⟩ | ⟨hph', -⟩ | ⟨hph', -⟩ := busStep_phase h
  · exact hs
  all_goals obtain hph | hph | hph := hph <;> simp [hph] at hph'

/-- BUS keeps the link between ENGINE and the controller, in each micro-state. -/
theorem busStep_linked (h : busStep p a s = .next t) (hcnt : s.eng.Counted) (hlink : Linked s.eng s.ctl) :
    Linked s.eng t.ctl := by
  obtain ⟨hr, hae, hwr, hn⟩ := busStep_fields h
  obtain ⟨harmed, hwaiting, hstage⟩ := hlink
  refine ⟨fun hopen => ?_, fun hwait => ?_, ?_⟩
  · rw [hae, hwr]
    refine harmed fun hfree => hopen ?_
    rw [busStep_idle h (.inl hfree)]; exact hfree
  · rw [hr]
    obtain hs | ⟨-, hto⟩ | ⟨-, -, hto⟩ | ⟨-, hto, -⟩ := busStep_phase h
    · exact hwaiting (hs ▸ hwait)
    · simp_all
    · simp [hto] at hwait
    · simp [hto] at hwait
  · have hcount := hcnt.counters
    cases hms : s.eng.ms <;> rw [hms] at hstage hcount
    case idle | doneC | doneR | chkBusy => exact hr.trans hstage
    case hNack | hTx => exact ⟨hr.trans hstage.1, busStep_inSegment h hcount.2.1 hstage.2⟩
    case rpTcr => exact busStep_endOfSegment h hstage
    case rjClrN | rjClrRl => exact busStep_exiting h hstage
    case pNack | pTx =>
      obtain ⟨hfinal, hph, hin⟩ := hstage
      refine ⟨hr ▸ hfinal, fun haddr => ?_, busStep_inSegment h hcount.2.1 hin⟩
      obtain hs | ⟨-, hto⟩ | ⟨-, -, hto⟩ | ⟨-, hto, -⟩ := busStep_phase h
      · exact hph (hs ▸ haddr)
      all_goals simp [haddr] at hto
    case pClrRl =>
      obtain ⟨hreload, hseg, hph⟩ := hstage
      have hs : t.ctl = s.ctl := by
        obtain ⟨hph, -⟩ | ⟨hph, -⟩ := hph
        · exact busStep_idle h (.inr (.inl hph))
        · cases (busStep_disabled (p := p) (by simp [busEnabled, hph, hreload]) a).symm.trans h
          rfl
      rw [hs]; exact ⟨hreload, hseg, hph⟩
    all_goals
      simp only [linkedIn] at hstage
      have hs : t.ctl = s.ctl := busStep_idle h (by simp [hstage])
      rw [hs]; exact hstage

/-- BUS raises no fault in a sound state: AUTOEND is set while a frame is open (R215). -/
theorem busStep_noFault (h : busStep p a s = .next t) (hs : s.fault = []) (hlink : Linked s.eng s.ctl) : t.fault = [] := by
  obtain ⟨-, rfl⟩ | ⟨-, -, rfl⟩ | ⟨-, -, c, -, rfl⟩ | ⟨hph, hc, -⟩ | ⟨-, -, -, rfl⟩ | ⟨-, rfl⟩ := busStep_inv h
  case inr.inr.inr.inl =>
    obtain ⟨hae, -⟩ := hlink.armed (by obtain hph | hph := hph <;> simp [hph])
    obtain ⟨-, ha⟩ | ⟨-, -, ha⟩ | ⟨-, -, -, ha⟩ | ⟨-, -, hoff, -⟩ := afterAck_cases s.ctl
    · cases hc.symm.trans ha
    · cases hc.symm.trans ha
    · cases hc.symm.trans ha
    · simp [hae] at hoff
  all_goals exact hs

/-- BUS keeps ENGINE and the controller in step. -/
theorem State.Coupled.busStep (hs : s.Coupled) (h : busStep p a s = .next t) : t.Coupled := by
  have hlink := busStep_linked h hs.engine hs.link
  have hfault := busStep_noFault h hs.noFault hs.link
  have hctrl := busStep_consistent h hs.ctrl
  obtain ⟨c, w, f, rfl⟩ := busStep_frame h
  exact ⟨hfault, hctrl, hs.engine, hlink⟩

/-- BUS keeps a sound state sound. -/
theorem busStep_sound (hs : s.Sound) (h : busStep p a s = .next t) : t.Sound := by
  have ht := hs.coupled.busStep h
  obtain ⟨c, w, f, rfl⟩ := busStep_frame h
  exact ht.sound hs.closed

end BusLink

/-! ### HOST, RESET and the whole machine -/

/-- The engine's invariants hold once GO has latched a request (R151, R153). -/
theorem accept_counted (h : HostRegs) : (Engine.accept h).Counted := by
  unfold Engine.accept
  split_ifs with hlong
  · exact ⟨le_rfl, nofun, rfl, nofun⟩
  · exact ⟨le_rfl, fun _ => by have := mt (headerTooLong_iff h).2 hlong; simp only [Engine.latch]; omega,
      ⟨rfl, rfl⟩, rfl, rfl, rfl⟩

/-- Whenever no request is active, reload is clear (R197). -/
theorem Linked.reload_of_inactive {e : Engine} {c : Ctrl} (h : Linked e c) (he : e.ms.active = false) : c.reload = false := by
  have hstage := h.stage
  obtain hms | hms | hms := (Micro.active_eq_false_iff _).1 he <;> rw [hms] at hstage <;> exact hstage

/-- HOST keeps a sound state sound. -/
theorem hostStep_sound {p : Params} {m : HostMove} {s t : State} (hs : s.Sound) (h : hostStep p m s = .next t) : t.Sound := by
  obtain ⟨h', rfl⟩ | h | ⟨v, rfl⟩ | ⟨n, a, v, rfl⟩ | rfl := hostStep_cases h
  · exact ⟨hs.noFault, hs.closed, hs.ctrl, hs.engine, hs.link⟩
  · obtain ⟨-, he⟩ | ⟨hoff, he⟩ := exec_go_cases s <;> cases he.symm.trans h
    · exact hs
    · refine ⟨hs.noFault, hs.closed, hs.ctrl, accept_counted _, hs.link.moved ?_⟩
      have hreload := hs.link.reload_of_inactive hoff
      unfold Engine.accept
      split_ifs <;> exact hreload
  · exact ⟨hs.noFault, hs.closed, hs.ctrl, hs.engine, hs.link⟩
  · obtain ⟨m, st, he⟩ := storeBytes_frame p n a v s
    rw [he]
    exact ⟨hs.noFault, hs.closed, hs.ctrl, hs.engine, hs.link⟩
  · exact hs

/-- Taking the move keeps a sound state sound. -/
theorem popMove_sound {s : State} (hs : s.Sound) : (popMove s).Sound :=
  ⟨by simpa using hs.noFault, (closed_next (p := Config.params) hs.closed).2, by simpa using hs.ctrl, by simpa using hs.engine,
    by simpa using hs.link⟩

/-- RESET gives a sound state. -/
theorem reset_sound {s : State} (hs : s.closed) : (resetStep s).Sound :=
  ⟨rfl, hs, Ctrl.reset_consistent, ⟨le_rfl, nofun, rfl, rfl⟩, linked_of_free rfl rfl⟩

/-- When only the block's own agents move, the next move is one of theirs, or RESET. -/
theorem closed_advance_cases {p : Params} {s t : State} (hs : s.closed) (h : advance p s = .next t) :
    (∃ d, nextMove p s = .block (.engine d) ∧ engineStep p d (popMove s) = .next t) ∨
    (∃ a, nextMove p s = .block (.bus a) ∧ busStep p a (popMove s) = .next t) ∨
    (∃ m, nextMove p s = .block (.host m) ∧ hostStep p m (popMove s) = .next t) ∨
    (nextMove p s = .block .reset ∧ t = resetStep (popMove s)) := by
  obtain ⟨⟨b, hb⟩, -⟩ := closed_next (p := p) hs
  obtain ⟨-, h | h | h | h | ⟨w, i, hm, -⟩ | ⟨x, hm, -⟩⟩ := advance_cases h
  · exact .inl h
  · exact .inr (.inl h)
  · exact .inr (.inr (.inl h))
  · exact .inr (.inr (.inr h))
  · cases hb.symm.trans hm
  · cases hb.symm.trans hm

/-- Every step keeps a sound state sound. -/
theorem advance_sound {p : Params} {s t : State} (hs : s.Sound) (h : advance p s = .next t) : t.Sound := by
  have hs' := popMove_sound hs
  obtain ⟨d, -, h⟩ | ⟨a, -, h⟩ | ⟨m, -, h⟩ | ⟨-, rfl⟩ := closed_advance_cases hs.closed h
  · exact engineStep_sound hs' h
  · exact busStep_sound hs' h
  · exact hostStep_sound hs' h
  · exact reset_sound hs'.closed

/-- Settles O50: each agent keeps the invariant, and its link has reload clear while no request is active. -/
theorem blockStaysSound : Obligations.BlockStaysSound := by
  intro s t hs h
  have ht := advance_sound hs h
  exact ⟨ht, fun hoff => ht.link.reload_of_inactive ((statusWord_active t.eng).symm.trans hoff)⟩

end Sys2Proof.Machine


/-! PROOFS. What ENGINE's ops mean for BUS, for the source states, and for the op trace (spec/40_frame_arbiter.md R120,
spec/41_transfer_engine.md R168 to R170, spec/42_segment_reload.md R195, R196). -/

namespace Sys2Proof.Machine

/-! ### ENGINE and BUS's enabled steps (R120) -/

/-- SETRELOAD leaves its operand in C.RELOAD (R106). -/
theorem opCtrl_setreload_reload {c c' : Ctrl} {r : Bool} (h : opCtrl c (.setreload r) = some c') : c'.reload = r := by
  simp only [opCtrl] at h
  split_ifs at h
  cases h; rfl

/-- ENGINE sets reload before START only, outside a frame. -/
theorem State.Sound.free_of_setreload {p : Params} {d : Nat} {s : State} (hs : s.Sound)
    (hi : engineOp p d s = some (.setreload true)) : s.ctl.phase = .free := by
  have hstage := hs.link.stage
  cases hms : s.eng.ms <;> simp [engineOp, hms] at hi
  rw [hms] at hstage
  obtain ⟨-, hph, -⟩ := hstage
  exact hph

/-- Settles O26: ENGINE's ops move the phase in FREE, RELOAD_WAIT and AWAIT_TX only, where BUS has no step, and set reload in
FREE only. -/
theorem engineLeavesEnabledBusSteps : Obligations.EngineLeavesEnabledBusSteps := by
  intro p d s t hs hen h
  obtain ⟨-, rfl⟩ | ⟨i, c, hi, hc, rfl⟩ := hs.coupled.engineStep h
  · exact ⟨hen, rfl⟩
  have hph : c.phase = s.ctl.phase := by
    obtain ⟨hsame, -⟩ | ⟨-, hph, -⟩ | ⟨n, -, hph, -⟩ | ⟨b, -, hx, -⟩ := opCtrl_cases hc
    · exact hsame.phase
    · simp [busEnabled, hph] at hen
    · simp [busEnabled, hph] at hen
    · simp [busEnabled, hs.ctrl.txis.1 hx] at hen
  refine ⟨?_, hph⟩
  have hreload : c.reload = true → s.ctl.phase ≠ .free → s.ctl.reload = true := fun hr hopen => by
    by_cases hset : ∃ r, i = .setreload r
    · obtain ⟨r, rfl⟩ := hset
      rw [opCtrl_setreload_reload hc] at hr
      exact absurd (hs.free_of_setreload (hr ▸ hi)) hopen
    · obtain ⟨-, -, -, -, hkept, -⟩ := opCtrl_frame hc
      rwa [hkept fun r hr' => hset ⟨r, hr'⟩] at hr
  rw [busEnabled_iff] at hen ⊢
  simp only [State.afterTurn, State.afterOp, hph]
  refine hen.imp id (Or.imp id (Or.imp id (Or.imp (fun ⟨hseg, hr, he⟩ => ⟨hseg, ?_, he⟩) id)))
  exact Bool.eq_false_iff.2 fun hr' => by simp [hreload hr' (by simp [hseg])] at hr

/-! ### ENGINE's enabled step issues one legal op (R166, R168) -/

/-- Whether a buffer read gives a byte does not depend on the draw. -/
theorem memRead_isByte (p : Params) (d d' : Nat) (s : State) (base len k : Word) :
    (memRead p d s base len k).isByte = (memRead p d' s base len k).isByte := by
  unfold memRead
  split_ifs <;> rfl

/-- ENGINE has an enabled step exactly where its micro-state issues an op, whatever the draw. -/
theorem engineOp_isSome (p : Params) (d : Nat) (s : State) : (engineOp p d s).isSome = engineEnabled p s := by
  have hbyte : ∀ x : BufferRead, x.byte?.isSome = x.isByte := by rintro (_ | _ | _) <;> rfl
  cases hms : s.eng.ms <;> simp only [engineOp, engineEnabled, hms]
  case hPush => rw [Option.isSome_map, hbyte, memRead_isByte p d 0]
  case pPush => rw [Option.isSome_map, hbyte, memRead_isByte p d 0]
  all_goals rfl

/-- With no request active ENGINE has no step (R166). -/
theorem engineStep_of_inactive {p : Params} {d : Nat} {s : State} (h : s.eng.ms.active = false) :
    engineEnabled p s = false ∧ engineStep p d s = .next s := by
  obtain hms | hms | hms := (Micro.active_eq_false_iff _).1 h <;> simp [engineEnabled, engineStep, hms]

/-- Settles O37: an enabled step has an op, which the controller takes in a sound state, and every encoded op is legal. -/
theorem enabledEngineStepIssuesOneOp : Obligations.EnabledEngineStepIssuesOneOp := by
  refine fun p d s => ⟨engineStep_of_inactive, fun hs hen => ?_⟩
  obtain ⟨i, hi⟩ := Option.isSome_iff_exists.1 ((engineOp_isSome p d s).trans hen)
  obtain ⟨c, hc, -⟩ := hs.coupled.turn hi
  exact ⟨_, engineStep_of_opCtrl hs.noFault hi hc, hs.noFault, _, rfl,
    legalOpWord_iff_decodes.2 ⟨i, decodeOp_encodeOp (engineOp_isOp hi)⟩⟩

/-! ### The source states (R170) -/

/-- ENGINE's registers after any step of ENGINE. -/
theorem engineStep_eng {p : Params} {d : Nat} {s t : State} (h : engineStep p d s = .next t) :
    t.eng = s.eng ∨ ∃ r, t.eng = s.eng.turn r := by
  cases hi : engineOp p d s with
  | none => rw [engineStep_none hi h]; exact .inl rfl
  | some i =>
    obtain ⟨k, hk, hturn⟩ := engineStep_issue hi
    obtain ⟨u, hu⟩ := exec_op_next (engineOp_isOp hi) s
    have heng : u.eng = s.eng := by obtain ⟨c, -, rfl⟩ | ⟨-, r, rfl⟩ := exec_op_inv (engineOp_isOp hi) hu <;> rfl
    by_cases hf : u.fault = []
    · cases (hk.symm.trans h).symm.trans (issue_next (engineOp_isOp hi) hu hf)
      exact .inr ⟨u.resp, hturn u heng⟩
    · cases (hk.symm.trans h).symm.trans (issue_fault (engineOp_isOp hi) hu hf)
      exact .inl heng

/-- The nine edges of R170, and staying. -/
theorem turn_state (e : Engine) (r : Option Bool) :
    (e.turn r).ms.state = e.ms.state ∨
    (e.ms.state, (e.turn r).ms.state) ∈
      [(0#3, 1#3), (1#3, 5#3), (1#3, 2#3), (2#3, 3#3), (3#3, 5#3), (3#3, 2#3), (3#3, 4#3), (0#3, 5#3), (2#3, 4#3)] := by
  cases hms : e.ms <;> simp only [Engine.turn, hms]
  case chkBusy | start | hNack | hTx | rpTcr | pSetNb | pClrRl | pNack | pTx => split_ifs <;> simp [Micro.state]
  case hPush => rw [Engine.headerSent_ms]; split_ifs <;> decide
  case pPush => rw [Engine.payloadSent_ms]; split_ifs <;> decide
  all_goals simp [Micro.state]

/-- Settles O38: each micro-state's successors lie on the edges. -/
theorem engineFollowsTheSourceStates : Obligations.EngineFollowsTheSourceStates := by
  intro p d s t h
  rw [statusWord_state, statusWord_state]
  obtain heng | ⟨r, heng⟩ := engineStep_eng h
  · exact .inl (by rw [heng])
  · rw [heng]; exact turn_state s.eng r

end Sys2Proof.Machine


/-! PROOFS. The op trace of a request: PUSHED counts its PUSHes, CLRNACK stands in it once after a rejection, and its PUSHes are
the buffers' bytes in order (spec/10_state.md R30, spec/42_segment_reload.md R195, R196). -/

namespace Sys2Proof.Machine

/-! ### A property of ENGINE's registers and the op trace -/

/-- HOST's access to the request: an accepted GO begins one, any other access leaves ENGINE's registers and the op trace
alone. -/
theorem hostStep_request {p : Params} {m : HostMove} {s t : State} (h : hostStep p m s = .next t) :
    (t.eng = s.eng ∧ t.trace = s.trace) ∨
    (s.eng.ms.active = false ∧ t = { s with eng := Engine.accept s.host, trace := [], stale := [] }) := by
  obtain ⟨h', rfl⟩ | h | ⟨v, rfl⟩ | ⟨n, a, v, rfl⟩ | rfl := hostStep_cases h
  · exact .inl ⟨rfl, rfl⟩
  · obtain ⟨-, he⟩ | ⟨hoff, he⟩ := exec_go_cases s <;> cases he.symm.trans h
    · exact .inl ⟨rfl, rfl⟩
    · exact .inr ⟨hoff, rfl⟩
  · exact .inl ⟨rfl, rfl⟩
  · obtain ⟨m, st, he⟩ := storeBytes_frame p n a v s
    rw [he]
    exact .inl ⟨rfl, rfl⟩
  · exact .inl ⟨rfl, rfl⟩

/-- In a sound state the request moves on by ENGINE's op, by an accepted GO, or by RESET, and by nothing else: a property of
ENGINE's registers and the op trace that these three keep, every step keeps. -/
theorem advance_request {P : Engine → List OpRecord → Prop} {p : Params} {s t : State} (hs : s.Sound)
    (hturn : ∀ {d i r}, engineOp p d (popMove s) = some i →
      P (s.eng.turn r) (s.trace ++ [⟨encodeOp i, r⟩]))
    (hgo : P (Engine.accept s.host) []) (hreset : P Engine.reset []) (h : advance p s = .next t) (hP : P s.eng s.trace) :
    P t.eng t.trace := by
  have hP' : P (popMove s).eng (popMove s).trace := by simpa using hP
  obtain ⟨d, -, h⟩ | ⟨a, -, h⟩ | ⟨m, -, h⟩ | ⟨-, rfl⟩ := closed_advance_cases hs.closed h
  · obtain ⟨-, rfl⟩ | ⟨i, c, hi, -, rfl⟩ := (popMove_sound hs).coupled.engineStep h
    · exact hP'
    · simpa [State.afterTurn] using hturn hi
  · obtain ⟨c, w, f, rfl⟩ := busStep_frame h
    exact hP'
  · obtain ⟨heng, htrace⟩ | ⟨-, rfl⟩ := hostStep_request h
    · rw [heng, htrace]; exact hP'
    · simpa using hgo
  · exact hreset

/-! ### PUSHED (R30) -/

/-- The bytes an op pushes. -/
def opPushes : Instr → List Byte
  | .push b => [b]
  | .setaddr _ | .setdir _ | .setnbytes _ | .setautoend _ | .setreload _ | .start => []
  | .polltxis | .polltcr | .pollnack | .clrnack | .pollbusy | .go => []

/-- The bytes pushed by a trace with one more op. -/
theorem pushesOf_append {i : Instr} (hi : i.isOp = true) (tr : List OpRecord) (r : Option Bool) :
    pushesOf (tr ++ [⟨encodeOp i, r⟩]) = pushesOf tr ++ opPushes i := by
  induction tr with
  | nil =>
    simp only [List.nil_append, pushesOf, decodeOp_encodeOp hi]
    cases i <;> rfl
  | cons x tr ih =>
    simp only [List.cons_append, pushesOf, ih]
    split <;> simp

/-- ENGINE counts each byte it pushes (R163, R192). -/
theorem turn_pushed {p : Params} {d : Nat} {s : State} {i : Instr} (hi : engineOp p d s = some i) (r : Option Bool) :
    (s.eng.turn r).pushed = s.eng.pushed + BitVec.ofNat 32 (opPushes i).length := by
  cases hms : s.eng.ms <;> simp only [engineOp, hms] at hi <;> simp only [Engine.turn, hms]
  case idle | doneC | doneR => cases hi
  case hPush => obtain ⟨b, -, rfl⟩ := Option.map_eq_some_iff.1 hi; rfl
  case pPush => obtain ⟨b, -, rfl⟩ := Option.map_eq_some_iff.1 hi; exact Engine.payloadSent_pushed _
  all_goals cases hi
  case chkBusy | hNack | pNack | pClrRl => split_ifs <;> simp [opPushes]
  all_goals simp [opPushes]

/-- Settles O52: PUSHED and the trace grow together, and begin empty. -/
theorem pushedStaysTheNumberOfPushes : Obligations.PushedStaysTheNumberOfPushes := by
  intro s t hs hcount h
  refine advance_request (P := fun e tr => e.pushed = BitVec.ofNat 32 (pushesOf tr).length) hs (fun hi => ?_) ?_ rfl h hcount
  · have hpushed := turn_pushed hi
    rw [popMove_eng] at hpushed
    rw [pushesOf_append (engineOp_isOp hi), hpushed, hcount, List.length_append, BitVec.ofNat_add]
  · unfold Engine.accept
    split_ifs <;> rfl

/-! ### The rejection flag is cleared once (R164, R196) -/

/-- The request has passed M_RJCLRN, where CLRNACK is issued. -/
def Engine.cleared (e : Engine) : Prop := e.ms = .rjClrRl ∨ (e.ms = .doneR ∧ e.cause = .nack)

/-- The op words of two ops are the same only for the same op. -/
theorem encodeOp_inj {i j : Instr} (hi : i.isOp = true) (hj : j.isOp = true) : encodeOp i = encodeOp j ↔ i = j :=
  ⟨fun h => by simpa [decodeOp_encodeOp hi, decodeOp_encodeOp hj] using congrArg decodeOp h, fun h => by rw [h]⟩

/-- How often an op stands in a trace with one more op. -/
theorem countOf_append {i j : Instr} (hi : i.isOp = true) (hj : j.isOp = true) (tr : List OpRecord) (r : Option Bool) :
    countOf j (tr ++ [⟨encodeOp i, r⟩]) = countOf j tr + if i = j then 1 else 0 := by
  simp only [countOf, List.filter_append, List.length_append, List.filter_cons, List.filter_nil, beq_iff_eq, encodeOp_inj hi hj]
  split_ifs <;> rfl

/-- ENGINE issues CLRNACK in M_RJCLRN, before the flag counts as cleared, and nowhere else. -/
theorem turn_cleared {p : Params} {d : Nat} {s : State} {i : Instr} (hcnt : s.eng.Counted) (hi : engineOp p d s = some i)
    (r : Option Bool) : ((s.eng.turn r).cleared ↔ s.eng.cleared ∨ i = .clrnack) ∧ ¬ (s.eng.cleared ∧ i = .clrnack) := by
  have hcounters := hcnt.counters
  cases hms : s.eng.ms <;> simp only [engineOp, hms] at hi <;> simp only [Engine.turn, Engine.cleared, hms]
  case idle | doneC | doneR => cases hi
  case hPush => obtain ⟨b, -, rfl⟩ := Option.map_eq_some_iff.1 hi; rw [Engine.headerSent_ms]; split_ifs <;> simp
  case pPush => obtain ⟨b, -, rfl⟩ := Option.map_eq_some_iff.1 hi; rw [Engine.payloadSent_ms]; split_ifs <;> simp
  all_goals cases hi
  case rjClrRl =>
    rw [hms] at hcounters
    obtain ⟨-, hcause⟩ := hcounters
    simp [hcause]
  case chkBusy | start | hNack | hTx | rpTcr | pSetNb | pClrRl | pNack | pTx => split_ifs <;> simp
  all_goals simp

/-- Settles O54: the count grows by one where the request passes M_RJCLRN, and begins at 0. -/
theorem rejectionFlagIsClearedOnce : Obligations.RejectionFlagIsClearedOnce := by
  classical
  intro s t hs hcount h
  have hcount' : countOf .clrnack s.trace = if s.eng.cleared then 1 else 0 := by
    rw [hcount]; unfold Engine.cleared; congr
  have ht : countOf .clrnack t.trace = if t.eng.cleared then 1 else 0 := by
    refine advance_request (P := fun e tr => countOf .clrnack tr = if e.cleared then 1 else 0) hs (fun {d i r} hi => ?_) ?_ ?_
      h hcount'
    · obtain ⟨hiff, honce⟩ := turn_cleared (by simpa using hs.engine) hi r
      rw [popMove_eng] at hiff honce
      rw [countOf_append (engineOp_isOp hi) rfl, hcount', if_congr hiff rfl rfl]
      by_cases hcl : s.eng.cleared <;> by_cases hi' : i = .clrnack <;> simp_all
    · refine (if_neg ?_).symm
      unfold Engine.cleared Engine.accept
      split_ifs <;> simp [Engine.latch]
    · exact (if_neg (by simp [Engine.cleared, Engine.reset])).symm
  rw [State.clearedOnce, ht]; unfold Engine.cleared; congr

/-! ### The bytes are sent in order (R62, R63, R195) -/

/-- The bytes sent by a request that has come to `e`, as HOSTMEM holds them in `s`. -/
def sentOf (p : Params) (s : State) (e : Engine) : List Byte :=
  bufferBytes p s e.lHp (headerSentCount e) ++ bufferBytes p s e.lPp (e.lPl.toNat - e.rem.toNat)

/-- One more byte of a buffer. -/
theorem bufferBytes_succ (p : Params) (s : State) (a : Addr) (n : Nat) :
    bufferBytes p s a (n + 1) = bufferBytes p s a n ++ [s.byteAt p (a + BitVec.ofNat 32 n)] := by
  simp [bufferBytes, List.range_succ]

@[simp] theorem bufferBytes_zero (p : Params) (s : State) (a : Addr) : bufferBytes p s a 0 = [] := rfl

/-- A buffer's bytes depend on HOSTMEM at its addresses alone. -/
theorem bufferBytes_congr {p : Params} {s t : State} {a : Addr} {n : Nat}
    (h : ∀ k < n, t.byteAt p (a + BitVec.ofNat 32 k) = s.byteAt p (a + BitVec.ofNat 32 k)) :
    bufferBytes p t a n = bufferBytes p s a n :=
  List.map_congr_left fun k hk => h k (List.mem_range.1 hk)

/-- While HOST has kept the buffers, a read that gives a byte gives HOSTMEM's (R69). -/
theorem memRead_byte {p : Params} {d : Nat} {s : State} {base len k : Word} {b : Byte} (hs : s.stale = [])
    (h : memRead p d s base len k = .byte b) : b = s.byteAt p (base + k) := by
  unfold memRead at h
  split_ifs at h
  cases h
  simp [drawByte, candidates, hs, Nat.mod_one]

/-- The difference of two words, as a number and back. -/
theorem ofNat_toNat_sub {x y : Word} (h : y.toNat ≤ x.toNat) : BitVec.ofNat 32 (x.toNat - y.toNat) = x - y := by
  have := x.isLt
  apply BitVec.eq_of_toNat_eq
  simp only [BitVec.toNat_ofNat, BitVec.toNat_sub]
  omega

/-- A header push sends the next header byte. -/
theorem sent_headerSent {p : Params} {s : State} (hcnt : s.eng.Counted) (hms : s.eng.ms = .hPush) :
    sentOf p s s.eng.headerSent = sentOf p s s.eng ++ [s.byteAt p (s.eng.lHp + headerIndex s.eng)] := by
  obtain ⟨-, hpos, hle, -, hrem⟩ : s.eng.countedIn .hPush := hms ▸ hcnt.counters
  have hcount : headerSentCount s.eng = s.eng.lHl.toNat - s.eng.seg.toNat := by simp [headerSentCount, hms]
  have hnext : headerSentCount s.eng.headerSent = s.eng.lHl.toNat - s.eng.seg.toNat + 1 := by
    have hpred := toNat_pred hpos
    by_cases hzero : s.eng.seg - 1#8 = 0#8
    · have hone : s.eng.seg.toNat - 1 = 0 := by rw [← hpred, hzero]; rfl
      simp only [headerSentCount, Engine.headerSent_ms, hzero, if_true, Engine.headerSent_lHl]
      omega
    · simp only [headerSentCount, Engine.headerSent_ms, hzero, if_false, Engine.headerSent_lHl, Engine.headerSent_seg, hpred]
      omega
  have hindex : headerIndex s.eng = BitVec.ofNat 32 (s.eng.lHl.toNat - s.eng.seg.toNat) := by
    rw [headerIndex, ← ofNat_toNat_sub (by rw [toNat_setWidth_word]; exact hle), toNat_setWidth_word]
  simp [sentOf, hcount, hnext, bufferBytes_succ, hindex, hrem]

/-- A payload push sends the next payload byte. -/
theorem sent_payloadSent {p : Params} {s : State} (hcnt : s.eng.Counted) (hms : s.eng.ms = .pPush) :
    sentOf p s s.eng.payloadSent = sentOf p s s.eng ++ [s.byteAt p (s.eng.lPp + payloadIndex s.eng)] := by
  obtain ⟨-, hpos, hle, -⟩ : s.eng.countedIn .pPush := hms ▸ hcnt.counters
  have hremLe := hcnt.remLe
  have hcount : headerSentCount s.eng = s.eng.lHl.toNat := by simp [headerSentCount, hms]
  have hnext : headerSentCount s.eng.payloadSent = s.eng.lHl.toNat := by
    simp only [headerSentCount, Engine.payloadSent_ms, Engine.payloadSent_lHl]
    split_ifs <;> rfl
  have hsent : s.eng.lPl.toNat - (s.eng.rem - 1#32).toNat = s.eng.lPl.toNat - s.eng.rem.toNat + 1 := by
    rw [toNat_pred_word (by omega)]; omega
  rw [sentOf, sentOf, hcount, hnext, Engine.payloadSent_lHp, Engine.payloadSent_lPp, Engine.payloadSent_lPl,
    Engine.payloadSent_rem, hsent, bufferBytes_succ, payloadIndex, ofNat_toNat_sub hremLe, List.append_assoc]

/-- While a request is being sent, and as it completes, each op of ENGINE adds to the bytes sent the bytes it pushes. -/
theorem sent_turn {p : Params} {d : Nat} {s : State} {i : Instr} (hcnt : s.eng.Counted) (hstale : s.stale = [])
    (hi : engineOp p d s = some i) (r : Option Bool)
    (hto : (s.eng.turn r).ms.sending = true ∨ (s.eng.turn r).ms = .doneC) :
    s.eng.ms.sending = true ∧ sentOf p s (s.eng.turn r) = sentOf p s s.eng ++ opPushes i := by
  have hcounters := hcnt.counters
  cases hms : s.eng.ms <;> simp only [engineOp, hms] at hi <;> simp only [Engine.turn, hms] at hto ⊢ <;> rw [hms] at hcounters
  case idle | doneC | doneR => cases hi
  case hPush =>
    obtain ⟨b, hb, rfl⟩ := Option.map_eq_some_iff.1 hi
    rw [sent_headerSent hcnt hms, memRead_byte hstale (BufferRead.byte?_eq_some.1 hb)]
    exact ⟨rfl, rfl⟩
  case pPush =>
    obtain ⟨b, hb, rfl⟩ := Option.map_eq_some_iff.1 hi
    rw [sent_payloadSent hcnt hms, memRead_byte hstale (BufferRead.byte?_eq_some.1 hb)]
    exact ⟨rfl, rfl⟩
  all_goals cases hi
  case start =>
    obtain ⟨-, hseg, -⟩ := hcounters
    have hlen := headerLen_toNat (hcnt.headerLe (by rw [hms]; rfl))
    refine ⟨rfl, ?_⟩
    split_ifs with hzero
    · rw [hseg] at hzero
      rw [hzero] at hlen
      simp [sentOf, headerSentCount, hms, opPushes, ← hlen]
    · simp [sentOf, headerSentCount, hms, opPushes, hseg, hlen]
  case rjClrN | rjClrRl => simp [Micro.sending, Micro.active] at hto
  case chkBusy | hNack | hTx | rpTcr | pSetNb | pClrRl | pNack | pTx =>
    refine ⟨rfl, ?_⟩
    split_ifs at hto ⊢ <;> simp_all [sentOf, headerSentCount, opPushes, Micro.sending, Micro.active]
  all_goals exact ⟨rfl, by simp [sentOf, headerSentCount, hms, opPushes]⟩

/-- A store of HOST that overwrites no byte of the running request's buffers leaves them as they are. -/
theorem storeBytes_kept {p : Params} {n : Nat} {a : Addr} {v : BitVec 64} {s : State}
    (h : (storeBytes p n a v s).stale = []) :
    s.stale = [] ∧ ∀ k, s.owns k = true → (storeBytes p n a v s).byteAt p k = s.byteAt p k := by
  induction n generalizing a v s with
  | zero => exact ⟨h, fun _ _ => rfl⟩
  | succ n ih =>
    obtain ⟨hstale, hkept⟩ := ih h
    rw [storeByte_stale] at hstale
    split_ifs at hstale with howns
    refine ⟨hstale, fun k hk => (hkept k hk).trans (storeByte_byteAt_other ?_)⟩
    rintro rfl
    exact howns hk

/-- The bytes sent so far lie in the running request's buffers (R70). -/
theorem sentOf_congr {p : Params} {s t : State} (hactive : s.eng.ms.active = true)
    (h : ∀ k, s.owns k = true → t.byteAt p k = s.byteAt p k) : sentOf p t s.eng = sentOf p s s.eng := by
  have hbuffer : ∀ {base len : Word} {n : Nat}, n ≤ len.toNat → (∀ a, inBuffer base len a = true → s.owns a = true) →
      bufferBytes p t base n = bufferBytes p s base n := by
    intro base len n hn howns
    refine bufferBytes_congr fun k hk => h _ (howns _ ?_)
    have := len.isLt
    rw [inBuffer, decide_eq_true_iff, BitVec.add_comm, BitVec.add_sub_cancel, BitVec.lt_def, BitVec.toNat_ofNat]
    omega
  have hheader : headerSentCount s.eng ≤ s.eng.lHl.toNat := by
    cases hms : s.eng.ms <;> simp [headerSentCount, hms]
  rw [sentOf, sentOf, hbuffer hheader fun a ha => by simp [State.owns, hactive, ha],
    hbuffer (Nat.sub_le _ _) fun a ha => by simp [State.owns, hactive, ha]]

/-- A request being sent is active. -/
theorem Micro.active_of_sending {m : Micro} (h : m.sending = true) : m.active = true := by
  simp only [Micro.sending, Bool.and_eq_true] at h
  exact h.1.1

/-- A request that GO has just begun has sent nothing (R152). -/
theorem sentOf_accept {p : Params} {s : State} {h : HostRegs} (hto : (Engine.accept h).ms.sending = true) :
    sentOf p s (Engine.accept h) = [] := by
  unfold Engine.accept at hto ⊢
  split_ifs at hto ⊢
  · cases hto
  · simp [sentOf, headerSentCount, Engine.latch]

/-- After a step of a request that is being sent or has just completed, and whose buffers HOST has kept, the pushes are the
bytes sent: ENGINE's op adds its push to both, and what else moves leaves both alone. -/
theorem advance_sent {p : Params} {s t : State} (hs : s.Sound) (horder : s.bytesInOrder p) (h : advance p s = .next t)
    (hto : t.eng.ms.sending = true ∨ (s.eng.ms.active = true ∧ t.eng.ms = .doneC)) (hstale : t.stale = []) :
    pushesOf t.trace = sentBytes p t := by
  have hs' := popMove_sound hs
  have horder' : (popMove s).bytesInOrder p := by
    simpa [State.bytesInOrder, sentBytes, bufferBytes, State.byteAt] using horder
  rw [← popMove_eng s] at hto
  have hkept : t.eng = (popMove s).eng → t.trace = (popMove s).trace → (popMove s).stale = [] →
      (∀ k, (popMove s).owns k = true → t.byteAt p k = (popMove s).byteAt p k) → pushesOf t.trace = sentBytes p t := by
    intro heng htrace hold hbytes
    have hsending : (popMove s).eng.ms.sending = true := by
      obtain hto | ⟨hactive, hdone⟩ := hto
      · rwa [heng] at hto
      · rw [← heng, hdone] at hactive
        cases hactive
    calc pushesOf t.trace = pushesOf (popMove s).trace := by rw [htrace]
      _ = sentOf p (popMove s) (popMove s).eng := horder' hsending hold
      _ = sentOf p t (popMove s).eng := (sentOf_congr (Micro.active_of_sending hsending) hbytes).symm
      _ = sentBytes p t := by rw [← heng]; rfl
  obtain ⟨d, -, h⟩ | ⟨a, -, h⟩ | ⟨m, -, h⟩ | ⟨-, rfl⟩ := closed_advance_cases hs.closed h
  · obtain ⟨-, rfl⟩ | ⟨i, c, hi, -, rfl⟩ := hs'.coupled.engineStep h
    · exact hkept rfl rfl hstale fun _ _ => rfl
    · obtain ⟨hsending, hsent⟩ := sent_turn (p := p) hs'.engine hstale hi (opReply (popMove s).ctl i) (hto.imp id And.right)
      calc pushesOf ((popMove s).trace ++ [⟨encodeOp i, opReply (popMove s).ctl i⟩])
        _ = pushesOf (popMove s).trace ++ opPushes i := pushesOf_append (engineOp_isOp hi) _ _
        _ = sentOf p (popMove s) (popMove s).eng ++ opPushes i := by rw [horder' hsending hstale]; rfl
        _ = sentOf p (popMove s) ((popMove s).eng.turn (opReply (popMove s).ctl i)) := hsent.symm
  · obtain ⟨c, w, f, rfl⟩ := busStep_frame h
    exact hkept rfl rfl hstale fun _ _ => rfl
  · obtain ⟨h', rfl⟩ | h | ⟨v, rfl⟩ | ⟨n, a, v, rfl⟩ | rfl := hostStep_cases h
    · exact hkept rfl rfl hstale fun _ _ => rfl
    · obtain ⟨-, he⟩ | ⟨hoff, he⟩ := exec_go_cases (popMove s) <;> cases he.symm.trans h
      · exact hkept rfl rfl hstale fun _ _ => rfl
      · obtain hto | ⟨hactive, -⟩ := hto
        · exact (sentOf_accept hto).symm
        · cases hoff.symm.trans hactive
    · exact hkept rfl rfl hstale fun _ _ => rfl
    · obtain ⟨hold, hbytes⟩ := storeBytes_kept hstale
      obtain ⟨m, st, he⟩ := storeBytes_frame p n a v (popMove s)
      exact hkept (by rw [he]) (by rw [he]) hold hbytes
    · exact hkept rfl rfl hstale fun _ _ => rfl
  · obtain hto | ⟨-, hto⟩ := hto <;> cases hto

/-- Settles O53: a request that has completed has sent all of both buffers, REM being 0 (R34). -/
theorem bytesAreSentInOrder : Obligations.BytesAreSentInOrder := by
  intro p s t hs horder h
  refine ⟨fun hto hstale => advance_sent hs horder h (.inl hto) hstale, fun hactive hdone hstale => ?_⟩
  obtain ⟨hrem, -⟩ : t.eng.countedIn .doneC := hdone ▸ (advance_sound hs h).engine.counters
  rw [advance_sent hs horder h (.inr ⟨hactive, hdone⟩) hstale, sentBytes, hrem]
  simp [headerSentCount, hdone]

/-! ### A rejection at a reload wait hangs (R217) -/

/-- ENGINE moved to where it stands. -/
theorem Engine.at_self {e : Engine} {m : Micro} (h : e.ms = m) : e.at m = e := by
  subst h; rfl

/-- In a hung state ENGINE polls TCR, which is 0, and polls again. -/
theorem State.Hung.engineStep {p : Params} {d : Nat} {s t : State} (hs : s.Hung) (h : engineStep p d s = .next t) :
    t.eng = s.eng ∧ t.ctl = s.ctl ∧ t.fault = s.fault ∧ t.script = s.script := by
  have hwaits := hs.waits
  have htcr : s.ctl.tcr = false := by
    have := hs.ctrl.tcr
    obtain hph | hph := hs.refused <;> simpa [hph] using this
  have hi : engineOp p d s = some .polltcr := by simp [engineOp, hwaits]
  cases (engineStep_of_opCtrl (c := s.ctl) hs.noFault hi rfl).symm.trans h
  refine ⟨?_, rfl, rfl, rfl⟩
  have hturn : s.eng.turn (some false) = s.eng := by
    simp only [Engine.turn, hwaits]
    exact Engine.at_self hwaits
  rw [State.afterTurn, opReply, htcr, hturn]

/-- In a hung state BUS can release the bus, which leaves RELOAD and NACKF alone (R119). -/
theorem State.Hung.busStep {p : Params} {a : Ack} {s t : State} (hs : s.Hung) (h : busStep p a s = .next t) :
    t.eng = s.eng ∧ (t.ctl.phase = .nackHold ∨ t.ctl.phase = .free) ∧ t.ctl.reload = s.ctl.reload ∧
    t.ctl.nackf = s.ctl.nackf ∧ t.fault = s.fault ∧ t.script = s.script := by
  have hrefused := hs.refused
  obtain ⟨-, rfl⟩ | ⟨hph, -⟩ | ⟨hph, -⟩ | ⟨hph, -⟩ | ⟨hph, -⟩ | ⟨-, rfl⟩ := busStep_inv h
  · exact ⟨rfl, hrefused, rfl, rfl, rfl, rfl⟩
  · obtain hph | hph := hph <;> simp [hph] at hrefused
  · obtain hph | hph := hph <;> simp [hph] at hrefused
  · obtain hph | hph := hph <;> simp [hph] at hrefused
  · simp [hph] at hrefused
  · exact ⟨rfl, .inr rfl, rfl, rfl, rfl, rfl⟩

/-- Settles O57: the phase shuts out the end-of-byte procedure, which alone sets TCR, and ACTIVE shuts out GO. -/
theorem rejectionAtAReloadWaitHangs : Obligations.RejectionAtAReloadWaitHangs := by
  intro p s t hs h hreset
  have hclosed := (closed_next (p := p) hs.closed).2
  have hpop : (popMove s).Hung :=
    ⟨by simpa using hs.noFault, hclosed, by simpa using hs.ctrl, by simpa using hs.waits, by simpa using hs.refused⟩
  have hfinish : t.eng = (popMove s).eng → (t.ctl.phase = .nackHold ∨ t.ctl.phase = .free) →
      t.ctl.reload = (popMove s).ctl.reload → t.ctl.nackf = (popMove s).ctl.nackf → t.fault = (popMove s).fault →
      t.script = (popMove s).script →
      t.Hung ∧ t.eng = s.eng ∧ t.ctl.reload = s.ctl.reload ∧ t.ctl.nackf = s.ctl.nackf ∧
        ((statusWord t.eng).extractLsb' 4 3 = 2#3 ∧ (statusWord t.eng).extractLsb' 8 5 = 11#5) := by
    intro heng hph hreload hnackf hfault hscript
    have hwaits : t.eng.ms = .rpTcr := by rw [heng]; exact hpop.waits
    refine ⟨⟨hfault.trans hpop.noFault, ?_, advance_consistent h hs.ctrl, hwaits, hph⟩, by simpa using heng,
      by simpa using hreload, by simpa using hnackf, ?_⟩
    · rw [State.closed, hscript]; exact hclosed
    · rw [statusWord_state, statusWord_code, hwaits]
      exact ⟨rfl, rfl⟩
  obtain ⟨d, -, h⟩ | ⟨a, -, h⟩ | ⟨m, -, h⟩ | ⟨hm, -⟩ := closed_advance_cases hs.closed h
  · obtain ⟨heng, hctl, hfault, hscript⟩ := hpop.engineStep h
    exact hfinish heng (hctl ▸ hpop.refused) (by rw [hctl]) (by rw [hctl]) hfault hscript
  · obtain ⟨heng, hph, hreload, hnackf, hfault, hscript⟩ := hpop.busStep h
    exact hfinish heng hph hreload hnackf hfault hscript
  · obtain ⟨hctl, -, hfault, -, hscript⟩ := hostStep_frame h
    obtain ⟨heng, -⟩ | ⟨hoff, -⟩ := hostStep_request h
    · exact hfinish heng (hctl ▸ hpop.refused) (by rw [hctl]) (by rw [hctl]) hfault hscript
    · rw [hpop.waits] at hoff; cases hoff
  · exact absurd hm hreset

end Sys2Proof.Machine


/-! PROOFS. The encodings through their bytes, the step by its moves, HOST's accesses and HOSTMEM, and the concrete registers
(spec/30_encoding.md R83 to R90, spec/20_memory.md R61 to R73, spec/10_state.md R21 to R40). -/

namespace Sys2Proof.Machine

/-! ### The encodings (R83 to R90) -/

/-- The two bytes of an op word, low byte first, are the word (notes/assumptions/25.md). -/
theorem ofNat_bytes (w : OpWord) : BitVec.ofNat 8 (w.toNat / 256) ++ BitVec.ofNat 8 w.toNat = w := by
  have hw := w.isLt
  apply BitVec.eq_of_toNat_eq
  rw [BitVec.toNat_append, BitVec.toNat_ofNat, BitVec.toNat_ofNat, Nat.shiftLeft_eq, ← Nat.shiftLeft_eq,
    ← Nat.shiftLeft_add_eq_or_of_lt (by omega), Nat.shiftLeft_eq]
  omega

/-- A table word of 16 bits is decoded as an op word. -/
theorem decodeTableWord_op (w : OpWord) : decodeTableWord 16 w.toNat = (decodeOp w).instr? := by
  rw [decodeTableWord, tableBytes, if_pos rfl]
  exact congrArg (fun w => (decodeOp w).instr?) (ofNat_bytes w)

/-- GO is the one instruction that is no op word (R86). -/
theorem eq_go_of_not_isOp {i : Instr} (h : i.isOp = false) : i = .go := by
  cases i
  case go => rfl
  all_goals cases h

/-- Settles O4: an op comes back through its word, which is legal because it decodes, and GO through its own. -/
theorem decodeEncodeRoundTrip : Obligations.DecodeEncodeRoundTrip := by
  refine fun i => ⟨?_, fun hi => ⟨legalOpWord_iff_decodes.2 ⟨i, decodeOp_encodeOp hi⟩, ?_⟩, fun hi => ?_⟩
  · cases hi : i.isOp with
    | true => rw [encode, if_pos hi]; exact decodeOp_encodeOp hi
    | false => rw [eq_go_of_not_isOp hi]; rfl
  · rw [decodeTableWord_op, decodeOp_encodeOp hi]; rfl
  · rw [eq_go_of_not_isOp hi]; rfl

/-- Settles O3: the decode procedure evaluates each of the words. -/
theorem decodesTheWordsOfTheSpec : Obligations.DecodesTheWordsOfTheSpec := by
  unfold Obligations.DecodesTheWordsOfTheSpec
  decide

/-! ### The step and its moves (R5, R215) -/

/-- Settles O7: an op word reaches CTRL through the decoder, and HOST's write of CMD reaches GO through bit 0. -/
theorem stepRunsTheDecodedInstruction : Obligations.StepRunsTheDecodedInstruction := by
  intro s hs
  have hrun : step s = runMove Config.params (nextMove Config.params s) (popMove s) := advance_run hs
  refine ⟨fun w i hm hi => ?_, fun w hm hw => ?_, fun v hm hv => ?_⟩
  · rw [hrun, hm]
    simp only [runMove, acceptOpWord, hi]
  · rw [hrun, hm]
    cases hd : decodeOp w with
    | instr i => simp [legalOpWord_iff_decodes.2 ⟨i, hd⟩] at hw
    | invalid why => simp only [runMove, acceptOpWord, hd]
  · rw [hrun, hm]
    exact (hostStep_wr_word (off := 0x14) (r := .cmd) rfl rfl Config.params v _).trans ((writeReg_cmd v _).trans (if_pos hv))

/-- Settles O8: with no fault recorded the step is the run of the next move. -/
theorem stepRunsTheBlocksAgents : Obligations.StepRunsTheBlocksAgents := by
  intro s
  refine ⟨fun m ms hq => ?_, fun hq => ?_, fun hs => ?_⟩
  · simp [nextMove, popMove, hq]
  · refine ⟨?_, by simp only [popMove, hq]⟩
    rw [nextMove, hq]
    rfl
  · have hrun : step s = runMove Config.params (nextMove Config.params s) (popMove s) := advance_run hs
    refine ⟨fun d hm => ?_, fun a hm => ?_, fun h hm => ?_, fun hm => ?_, fun x hm => ?_⟩ <;> rw [hrun, hm] <;> rfl

/-! ### SETNBYTES and the end-of-byte procedure (R104, R114) -/

/-- Settles O12, by the phase. -/
theorem setnbytesEffect : Obligations.SetnbytesEffect := by
  refine fun n s => ⟨rfl, exec_setnbytes_free, fun hph hn => ?_, fun hph hn => ?_, fun hph hs => ?_, fun hph hs => ?_⟩
  · rw [exec_setnbytes_reloadWait hph, Ctrl.resume, if_neg hn]; rfl
  · rw [exec_setnbytes_reloadWait hph, Ctrl.resume, if_pos hn, hn]; rfl
  · rw [← raise_of_noFault hs, exec, execSetnbytes]
    obtain hph | hph | hph := hph <;> rw [hph]
  · rw [← raise_of_noFault hs, exec, execSetnbytes]
    obtain hph | hph | hph := hph <;> rw [hph]

/-- Settles O24: the four ends exclude each other, and the last one leaves BUS's step without an update. -/
theorem endOfByteProcedure : Obligations.EndOfByteProcedure := by
  refine fun p s => ⟨afterAck_of_nbytes_ne, afterAck_of_reload, fun hn hr ha => ?_, fun hn hr ha hs hph => ?_⟩
  · simp [Ctrl.afterAck, hn, hr, ha]
  · rw [busStep_byte hph, answered, afterAck_of_autoend_off hn hr ha, ← raise_of_noFault hs]

/-! ### ENGINE's buffer reads (R62 to R70) -/

/-- A read of an admitted byte of a legally placed buffer is a draw among the byte's candidates. -/
theorem memRead_admitted {p : Params} {d : Nat} {s : State} {base len k : Word}
    (hplace : overlapsRegisters p base len.toNat = false) (hadmit : p.admits (base + k) = true) :
    memRead p d s base len k = .byte (drawByte p s (base + k) d) := by
  simp [memRead, hplace, hadmit]

/-- A byte that HOST has not overwritten during the request has one candidate. -/
theorem drawByte_of_fresh {p : Params} {s : State} {a : Addr} (h : ∀ c ∈ s.stale, c.1 ≠ a.toNat) (d : Nat) :
    drawByte p s a d = s.byteAt p a := by
  have hnone : s.stale.filter (fun c => c.1 == a.toNat) = [] := by simpa using h
  simp [drawByte, candidates, hnone, Nat.mod_one]

/-- A byte that HOST has overwritten once has two candidates, the new value and the old one, taken in turn by the draw. -/
theorem drawByte_storeByte {p : Params} {s : State} {a : Addr} {b : Byte} (hs : s.stale = []) (howns : s.owns a = true)
    (d : Nat) : drawByte p (storeByte p a b s) a d = if d % 2 = 0 then b else s.byteAt p a := by
  have hcand : candidates p (storeByte p a b s) a = [b, s.byteAt p a] := by simp [candidates, hs, howns]
  rw [drawByte, hcand]
  obtain h | h := Nat.mod_two_eq_zero_or_one d <;> simp [h]

/-- Settles O31: with no byte overwritten there is one candidate, and after one overwrite that byte has two and the others
one. -/
theorem bufferReadsReturnMemoryOrADraw : Obligations.BufferReadsReturnMemoryOrADraw := by
  intro p s base len k hplace hadmit hs
  refine ⟨fun d => ?_, fun b howns => ⟨fun d => ?_, ⟨0, ?_⟩, ⟨1, ?_⟩, fun j d hj hadmit' => ?_⟩⟩
  · rw [memRead_admitted hplace hadmit, drawByte_of_fresh (by simp [hs])]
  · rw [memRead_admitted hplace hadmit, drawByte_storeByte hs howns]
    split_ifs
    · exact .inl rfl
    · exact .inr rfl
  · rw [memRead_admitted hplace hadmit, drawByte_storeByte hs howns]; rfl
  · rw [memRead_admitted hplace hadmit, drawByte_storeByte hs howns]; rfl
  · have hfresh : ∀ c ∈ (storeByte p (base + k) b s).stale, c.1 ≠ (base + j).toNat := by
      intro c hc
      simp only [storeByte_stale, howns, if_true, hs, List.mem_singleton] at hc
      subst hc
      exact fun he => hj (BitVec.eq_of_toNat_eq he.symm)
    rw [memRead_admitted hplace hadmit', drawByte_of_fresh hfresh, storeByte_byteAt_other hj]

/-- A buffer with a byte in a register block overlaps it (R67). -/
theorem overlapsRegisters_of_touches {p : Params} {a : Addr} {n : Nat} (hn : n ≤ 2 ^ 32)
    (h : touchesEngine p a n ∨ touchesCtrl p a n) : overlapsRegisters p a n = true := by
  rw [overlapsRegisters, Bool.or_eq_true, arcsMeet_engine hn, arcsMeet_ctrl hn]
  exact h

/-- Settles O34: the read decides before the op is issued. -/
theorem unadmittedReadLeavesEngineStuck : Obligations.UnadmittedReadLeavesEngineStuck := by
  intro p d s
  have hstuck : ∀ {d base len k}, overlapsRegisters p base (BitVec.toNat len) = false → p.admits (base + k) = false →
      memRead p d s base len k = .notAdmitted := fun hplace hadmit => by simp [memRead, hplace, hadmit]
  have hover : ∀ {base len k}, touchesEngine p base (BitVec.toNat len) ∨ touchesCtrl p base (BitVec.toNat len) →
      memRead p d s base len k = .overlap := fun {base len k} h => by
    rw [memRead, if_pos (overlapsRegisters_of_touches (Nat.le_of_lt len.isLt) h)]
  refine ⟨?_, ?_⟩
  · rintro (⟨hms, hplace, hadmit⟩ | ⟨hms, hplace, hadmit⟩)
    · refine ⟨?_, ?_, (statusWord_active s.eng).trans (by rw [hms]; rfl)⟩
      · rw [engineStep, hms]
        simp only [stepHPush, headerIndex, hstuck hplace hadmit]
      · simp only [engineEnabled, hms, headerIndex, hstuck hplace hadmit, BufferRead.isByte]
    · refine ⟨?_, ?_, (statusWord_active s.eng).trans (by rw [hms]; rfl)⟩
      · rw [engineStep, hms]
        simp only [stepPPush, payloadIndex, hstuck hplace hadmit]
      · simp only [engineEnabled, hms, payloadIndex, hstuck hplace hadmit, BufferRead.isByte]
  · rintro (⟨hms, h⟩ | ⟨hms, h⟩)
    · rw [engineStep, hms]
      simp only [stepHPush, hover h]
    · rw [engineStep, hms]
      simp only [stepPPush, hover h]

/-! ### HOST's reads and refused accesses (R21, R61, R65) -/

/-- An aligned 32-bit read at a register's offset returns the register. -/
theorem hostStep_rd_word {off : Nat} {r : HostReg} (h4 : off % 4 = 0) (h : regAt off = some r) (p : Params) (s : State) :
    hostStep p (.rd off .word) s = .next { s with rdata := (readReg s r).setWidth 64 } := by
  rw [hostStep, hostRd, wordAccess_at h4 h]

/-- Settles O40: each offset is its register's, and a load in ENGINE's block is the read at its offset. -/
theorem hostReadsTheRegisters : Obligations.HostReadsTheRegisters := by
  intro p s
  refine ⟨?_, hostStep_rd_word (r := .hdrPtr) rfl rfl p s, hostStep_rd_word (r := .hdrLen) rfl rfl p s,
    hostStep_rd_word (r := .payPtr) rfl rfl p s, hostStep_rd_word (r := .payLen) rfl rfl p s,
    hostStep_rd_word (r := .cmd) rfl rfl p s, hostStep_rd_word (r := .status) rfl rfl p s,
    hostStep_rd_word (r := .pushed) rfl rfl p s,
    fun off hoff h4 => routed_engineWord p hoff h4 (fun off => hostRd off .word s) _⟩
  have hwidth : (s.host.addr.setWidth 32).setWidth 64 = s.host.addr.setWidth 64 := by
    apply BitVec.eq_of_toNat_eq
    have := s.host.addr.isLt
    simp only [BitVec.toNat_setWidth]
    omega
  rw [hostStep_rd_word (r := .addr) rfl rfl p s, readReg, hwidth]

/-- An access that is not 32 bits wide or not aligned is refused (R65). -/
theorem wordAccess_bad {R : Type} {find : Nat → Option R} {off : Nat} {width : Width} (h : width ≠ .word ∨ off % 4 ≠ 0)
    (k : R → Result) : wordAccess find off width k = .refused (.badRegisterAccess off width) :=
  if_neg fun ⟨hw, h4⟩ => h.elim (absurd hw) (absurd h4)

/-- A legal word access where there is no register is refused (R21). -/
theorem wordAccess_none {R : Type} {find : Nat → Option R} {off : Nat} (h4 : off % 4 = 0) (h : find off = none)
    (k : R → Result) : wordAccess find off .word k = .refused (.noSuchRegister off) := by
  simp [wordAccess, h4, h]

/-- From 0x20 up there is no register of ENGINE's block (R21). -/
theorem regAt_none {off : Nat} (h : 0x20 ≤ off) : regAt off = none := by
  unfold regAt
  iterate 8 rw [if_neg (by omega)]

/-- An offset from an aligned base is aligned as the address is. -/
theorem sub_toNat_mod_four {a b : Addr} (hb : b.toNat % 4 = 0) : (a - b).toNat % 4 = a.toNat % 4 := by
  have := a.isLt
  have := b.isLt
  rw [BitVec.toNat_sub]
  omega

/-- Away from the four addresses of R37 to R40 there is no register of CTRL's block. -/
theorem ctrlRegAt_none {p : Params} {a : Addr} (hcr2 : a ≠ p.ctrlBase + 0x04#32) (hisr : a ≠ p.ctrlBase + 0x18#32)
    (hicr : a ≠ p.ctrlBase + 0x1C#32) (htxdr : a ≠ p.ctrlBase + 0x28#32) : ctrlRegAt (a - p.ctrlBase).toNat = none := by
  have hoff : ∀ n < 2 ^ 32, a ≠ p.ctrlBase + BitVec.ofNat 32 n → (a - p.ctrlBase).toNat ≠ n := by
    rintro n hn hne rfl
    exact hne (by rw [BitVec.ofNat_toNat, BitVec.setWidth_eq, BitVec.add_comm, BitVec.sub_add_cancel])
  unfold ctrlRegAt
  rw [if_neg (hoff _ (by decide) hcr2), if_neg (hoff _ (by decide) hisr), if_neg (hoff _ (by decide) hicr),
    if_neg (hoff _ (by decide) htxdr)]

/-- A HOST store by address: a register write in ENGINE's block, else bytes of HOSTMEM (R61). -/
theorem hostStep_store (p : Params) (a : Addr) (width : Width) (v : BitVec 64) (s : State) :
    hostStep p (.store a width v) s =
      routed p a width (fun off => hostWr off width v s) (.next (storeBytes p (bytesOf width) a v s)) := rfl

/-- A HOST load by address: a register read in ENGINE's block, else bytes of HOSTMEM (R61). -/
theorem hostStep_load (p : Params) (a : Addr) (width : Width) (s : State) :
    hostStep p (.load a width) s =
      routed p a width (fun off => hostRd off width s) (.next { s with rdata := loadBytes p (bytesOf width) a s }) := rfl

/-- Settles O42: the width and the alignment of the offset are tested first; both bases are aligned, so the offset is aligned as
the address is. -/
theorem badRegisterAccessIsRefused : Obligations.BadRegisterAccessIsRefused := by
  intro p s width v
  have hctrl : p.ctrlBase.toNat % 4 = 0 := by have := p.ctrlAligned; omega
  have hengine : p.engineBase.toNat % 4 = 0 := by have := p.engineAligned; omega
  refine ⟨fun off => ⟨fun hbad => ⟨wordAccess_bad hbad _, wordAccess_bad hbad _⟩, ?_⟩,
    fun a => ⟨fun he hc hbad => ?_, fun hbad => ?_, ?_⟩⟩
  · rintro rfl h4 hoff
    exact ⟨wordAccess_none h4 (regAt_none hoff) _, wordAccess_none h4 (regAt_none hoff) _⟩
  · rw [← sub_toNat_mod_four hengine] at hbad
    rw [hostStep_store, hostStep_load, routed_engine hc he, routed_engine hc he]
    exact ⟨wordAccess_bad hbad _, wordAccess_bad hbad _⟩
  · rw [← sub_toNat_mod_four hctrl] at hbad
    exact ⟨wordAccess_bad hbad _, wordAccess_bad hbad _⟩
  · rintro rfl h4 hcr2 hisr hicr htxdr
    rw [← sub_toNat_mod_four hctrl] at h4
    have hnone := ctrlRegAt_none hcr2 hisr hicr htxdr
    exact ⟨wordAccess_none h4 hnone _, wordAccess_none h4 hnone _⟩

/-- Settles O44: no access of HOST writes CTRL, and an address in CTRL's block is refused before anything else. -/
theorem hostNeverTouchesTheController : Obligations.HostNeverTouchesTheController := by
  refine fun p s => ⟨fun h t ht => ?_, fun a width v htouch => ?_⟩
  · obtain ⟨hctl, hwire, hfault, hresp, -⟩ := hostStep_frame ht
    exact ⟨hctl, hwire, hfault, hresp⟩
  · rw [hostStep_store, hostStep_load, routed_ctrl htouch, routed_ctrl htouch]
    exact ⟨rfl, rfl⟩

/-! ### HOST's stores and loads of HOSTMEM (R64, R73) -/

/-- A store leaves every byte beside its own alone. -/
theorem storeBytes_read_other {p : Params} {n : Nat} {a k : Addr} {v : BitVec 64} {s : State}
    (h : ∀ i < n, k ≠ a + BitVec.ofNat 32 i) : (storeBytes p n a v s).mem.read k.toNat = s.mem.read k.toNat := by
  induction n generalizing a v s with
  | zero => rfl
  | succ n ih =>
    have hrest : ∀ i < n, k ≠ a + 1#32 + BitVec.ofNat 32 i := fun i hi => by
      rw [BitVec.add_assoc, ← BitVec.ofNat_add, Nat.add_comm]
      exact h (i + 1) (by omega)
    have hfirst : k.toNat ≠ a.toNat := fun he => h 0 (by omega) (by simpa using BitVec.eq_of_toNat_eq he)
    exact (ih hrest).trans (Memory.read_write_other _ _ hfirst)

/-- Byte `i` of a store lands at its address plus `i`, low byte first. -/
theorem storeBytes_byte {p : Params} {n i : Nat} (hn : n ≤ 2 ^ 32) (hi : i < n) (a : Addr) (v : BitVec 64) (s : State) :
    (storeBytes p n a v s).byteAt p (a + BitVec.ofNat 32 i) = (v >>> (8 * i)).setWidth 8 := by
  induction n generalizing a v s i with
  | zero => omega
  | succ n ih =>
    cases i with
    | zero =>
      have hkept : ∀ j < n, a ≠ a + 1#32 + BitVec.ofNat 32 j := fun j hj he => by
        have := congrArg BitVec.toNat he
        simp only [BitVec.toNat_add, BitVec.toNat_ofNat] at this
        have := a.isLt
        omega
      simp [State.byteAt, storeBytes, storeBytes_read_other hkept]
    | succ i =>
      have hrest := ih (by omega) (Nat.lt_of_succ_lt_succ hi) (a + 1#32) (v >>> 8) (storeByte p a (v.setWidth 8) s)
      rw [BitVec.add_assoc, ← BitVec.ofNat_add, Nat.add_comm, ← BitVec.shiftRight_add] at hrest
      rw [show 8 * (i + 1) = 8 + 8 * i by omega]
      exact hrest

/-- A load of `n` bytes is a number of `8 * n` bits. -/
theorem loadBytes_lt (p : Params) (n : Nat) (a : Addr) (s : State) : (loadBytes p n a s).toNat < 2 ^ (8 * n) :=
  Nat.lt_pow_two_of_testBit _ fun _ hj => (BitVec.testBit_toNat _).trans (loadBytes_high p n a s hj)

/-- Settles O43: the access goes to HOSTMEM, byte by byte. -/
theorem hostStoreWritesItsBytes : Obligations.HostStoreWritesItsBytes := by
  intro p s a width v hplace
  have hbytes : bytesOf width ≤ 8 := by cases width <;> decide
  obtain ⟨m, st, hframe⟩ := storeBytes_frame p (bytesOf width) a v s
  refine ⟨⟨storeBytes p (bytesOf width) a v s, ?_, fun i hi => storeBytes_byte (bytesOf_le width) hi a v s,
      fun k hk => storeBytes_read_other hk, ?_⟩,
    loadBytes p (bytesOf width) a s, ?_, fun i hi => loadBytes_byte p hbytes hi a s, loadBytes_lt p _ a s⟩
  · rw [hostStep_store, routed_mem hplace]
  · rw [hframe]
    exact ⟨rfl, rfl, rfl, rfl, rfl, rfl, rfl, rfl, rfl, rfl⟩
  · rw [hostStep_load, routed_mem hplace]

/-! ### The concrete registers (R37 to R40) -/

section Cr2Layout

variable (c : Ctrl)

theorem cr2Word_sadd7 : (cr2Word c).extractLsb' 1 7 = c.sadd7 := by
  rw [cr2Word, BitVec.extractLsb'_append_eq_of_le (by simp)]
  exact BitVec.extractLsb'_append_eq_right

theorem cr2Word_start : (cr2Word c).getLsbD 13 = (c.phase == .addr) := by
  rw [cr2Word]
  iterate 7 rw [BitVec.getLsbD_append]
  simp

/-- Bits 11 and 12, ADD10 and HEAD10R. -/
theorem cr2Word_addressing : (cr2Word c).extractLsb' 11 2 = 0#2 := by
  rw [cr2Word]
  iterate 4 rw [BitVec.extractLsb'_append_eq_of_le (by simp)]
  exact extractLsb'_zero_append BitVec.extractLsb'_append_eq_right

/-- Bits 14 and 15, STOP and NACK. -/
theorem cr2Word_ending : (cr2Word c).extractLsb' 14 2 = 0#2 := by
  rw [cr2Word]
  iterate 7 rw [BitVec.extractLsb'_append_eq_of_le (by simp)]
  exact extractLsb'_zero_append BitVec.extractLsb'_append_eq_right

/-- Bit 26, PECBYTE, and the reserved bits above it. -/
theorem cr2Word_reserved : (cr2Word c).extractLsb' 26 6 = 0#6 := by
  rw [cr2Word]
  iterate 12 rw [BitVec.extractLsb'_append_eq_of_le (by simp)]
  exact BitVec.extractLsb'_eq_self

/-- CR2 written back as it reads but with START = 1 changes no field (notes/assumptions/28.md). -/
theorem cr2Updates_start : cr2Updates c (cr2Word c ||| 0x00002000#32) = [.start] := by
  have hfield : ∀ {j n : Nat}, (0x00002000#32).extractLsb' j n = 0#n →
      (cr2Word c ||| 0x00002000#32).extractLsb' j n = (cr2Word c).extractLsb' j n := fun h => by
    rw [BitVec.extractLsb'_or, h, BitVec.or_zero]
  have hbit : ∀ {j : Nat}, (0x00002000#32).getLsbD j = false →
      (cr2Word c ||| 0x00002000#32).getLsbD j = (cr2Word c).getLsbD j := fun h => by
    rw [BitVec.getLsbD_or, h, Bool.or_false]
  have hstart : (cr2Word c ||| 0x00002000#32).getLsbD 13 = true := by
    rw [BitVec.getLsbD_or]; exact Bool.or_true _
  rw [cr2Updates, hfield rfl, if_pos rfl, hbit rfl, cr2Word_rdWrn, if_pos rfl, hfield rfl, cr2Word_nbytes, if_pos rfl,
    hbit rfl, cr2Word_autoend, if_pos rfl, hbit rfl, cr2Word_reload, if_pos rfl, hstart]
  rfl

end Cr2Layout

/-- CR2 written back as it reads but with START = 1 is START, with START's faults. -/
theorem writeCr2_start (p : Params) {s : State} (hs : s.fault = []) :
    writeCr2 p (cr2Word s.ctl ||| 0x00002000#32) s = exec .start s := by
  obtain ⟨t, ht⟩ := exec_op_next (i := .start) rfl s
  have hall : updateAll p [.start] s = .next t := by
    simp only [updateAll, updateCr2, ht]
    split_ifs <;> rfl
  rw [writeCr2, cr2Updates_start, hall, ht]
  obtain hf | ⟨r, rfl⟩ := exec_op_fault rfl hs ht
  · simp [hf]
  · simp

/-- The bits that the block has lie in the mask. -/
theorem isrFlags_masked (c : Ctrl) : isrFlags c &&& ~~~isrMask = 0#32 := by
  unfold isrFlags
  generalize c.busy = busy, c.tcr = tcr, c.nackf = nackf, c.txis = txis
  revert busy tcr nackf txis
  decide

/-- A bit of ISR that the block does not have reads the free word (R38). -/
theorem isrWord_other (f : Word) (c : Ctrl) {i : Nat} (htxis : i ≠ 1) (hnackf : i ≠ 4) (htcr : i ≠ 7) (hbusy : i ≠ 15) :
    (isrWord f c).getLsbD i = f.getLsbD i := by
  by_cases hi : i < 32
  · have hbits : ∀ j < 32, j ≠ 1 → j ≠ 4 → j ≠ 7 → j ≠ 15 → isrMask.getLsbD j = false := by decide
    have hmask := hbits i hi htxis hnackf htcr hbusy
    have hflag := congrArg (BitVec.getLsbD · i) (isrFlags_masked c)
    simp only [BitVec.getLsbD_and, BitVec.getLsbD_not, hi, hmask, BitVec.getLsbD_zero, decide_true, Bool.not_false,
      Bool.and_true] at hflag
    rw [isrWord, BitVec.getLsbD_or, BitVec.getLsbD_and, BitVec.getLsbD_not, hmask, hflag]
    simp [hi]
  · rw [BitVec.getLsbD_of_ge _ _ (by omega), BitVec.getLsbD_of_ge _ _ (by omega)]

/-- No op reads TXDR: its precondition is the same whatever TXDR holds (R40). -/
theorem opCtrl_txdr (c : Ctrl) (i : Instr) (b : Byte) : (opCtrl { c with txdr := b } i).isSome = (opCtrl c i).isSome := by
  cases i
  case polltxis | polltcr | pollnack | pollbusy | clrnack | go => rfl
  all_goals
    simp only [opCtrl]
    split_ifs <;> rfl

/-- No op's response depends on TXDR (R40). -/
theorem exec_txdr_resp {i : Instr} {s t : State} (hi : i.isOp = true) (h : exec i s = .next t) (b : Byte) :
    ∃ u, exec i { s with ctl := { s.ctl with txdr := b } } = .next u ∧ u.resp = t.resp := by
  have hsome := opCtrl_txdr s.ctl i b
  have hreply : opReply { s.ctl with txdr := b } i = opReply s.ctl i := by cases i <;> rfl
  obtain ⟨c', hc', hu⟩ | ⟨hc', r', hu⟩ := exec_op hi { s with ctl := { s.ctl with txdr := b } } <;>
    obtain ⟨c, hc, rfl⟩ | ⟨hc, r, rfl⟩ := exec_op_inv hi h
  · exact ⟨_, hu, hreply⟩
  · simp [hc, hc'] at hsome
  · simp [hc, hc'] at hsome
  · exact ⟨_, hu, rfl⟩

/-- Settles O45: each register stands at its offset, CR2 is read field by field, and ISR bit by bit. -/
theorem controllerRegisterLayout : Obligations.ControllerRegisterLayout := by
  intro p s
  have hwidth : ∀ w : Word, (w.setWidth 64).setWidth 32 = w := fun w => by simp
  refine ⟨⟨ctrlAccess_rd p .cr2 s, cr2Word_sadd7 _, fun a t hfree ht => ?_, cr2Word_rdWrn _, cr2Word_addressing _, ?_,
      cr2Word_ending _, cr2Word_nbytes _, cr2Word_reload _, cr2Word_autoend _, cr2Word_reserved _, fun hs => ?_,
      cr2Word_ctrlReset⟩,
    ⟨⟨_, ctrlAccess_rd p .isr s⟩, fun v t ht => ?_, fun f => ⟨isrWord_txis f _, isrWord_nackf f _, isrWord_tcr f _,
      isrWord_busy f _, fun i => isrWord_other f _, isrWord_ctrlReset_modelled f⟩⟩,
    ⟨ctrlAccess_rd p .icr s, (ctrlAccess_wr p .icr _ s).trans (writeCtrlReg_icr_nackcf p s), ?_, fun v hv => ?_⟩,
    fun b => (ctrlAccess_wr p .txdr _ s).trans (writeCtrlReg_txdr_byte p b s), rfl,
    fun i b t hi ht => exec_txdr_resp hi ht b⟩
  · cases (exec_setaddr_free hfree).symm.trans ht
    exact cr2Word_sadd_of_rest rfl
  · rw [cr2Word_start]; exact beq_iff_eq
  · exact (ctrlAccess_wr p .cr2 _ s).trans (by rw [hwidth]; exact writeCr2_start p hs)
  · cases (ctrlAccess_wr p .isr v s).symm.trans ht
    rfl
  · exact (ctrlAccess_wr p .icr _ s).trans rfl
  · refine (ctrlAccess_wr p .icr _ s).trans ?_
    rw [hwidth]
    exact if_pos hv

/-! ### Reset (R44) -/

/-- Settles O47: nothing is open, active, pushed or written at reset. -/
theorem invariantsHoldAtReset : Obligations.InvariantsHoldAtReset :=
  ⟨reset_sound (s := State.reset) nofun, rfl, ⟨.nil, nofun⟩, rfl, rfl, fun _ hsending => nomatch hsending⟩

end Sys2Proof.Machine


/-! PROOFS. A request under the eager schedule with every answer ACK (spec/42_segment_reload.md R194, R195, R198): an invariant
that says what ENGINE has still to do, kept by BUS's steps and spent one op at a time by ENGINE's. -/

namespace Sys2Proof.Machine

/-! ### What a payload costs (R194, R198) -/

/-- The ops from a reload wait on, with `k` payload bytes to come. -/
def reloadOps (k : Nat) : Nat := 2 * segmentCount k + 1 + 3 * k

theorem reloadOps_of_le {k : Nat} (h : k ≤ 255) : reloadOps k = 3 * k + 3 := by
  have : segmentCount k = 1 := by unfold segmentCount; omega
  rw [reloadOps, this]; omega

/-- A full segment costs its reload wait, its length, and its bytes. -/
theorem reloadOps_of_gt {k : Nat} (h : 255 < k) : reloadOps k = reloadOps (k - 255) + 767 := by
  have : segmentCount k = segmentCount (k - 255) + 1 := by unfold segmentCount; omega
  rw [reloadOps, reloadOps, this]; omega

theorem segmentLengths_of_le {k : Nat} (h : k ≤ 255) : segmentLengths k = [BitVec.ofNat 8 k] := by
  have : (k - 1) / 255 = 0 := by omega
  simp [segmentLengths, this]

theorem segmentLengths_of_gt {k : Nat} (h : 255 < k) : segmentLengths k = 255#8 :: segmentLengths (k - 255) := by
  have hdiv : (k - 1) / 255 = (k - 255 - 1) / 255 + 1 := by omega
  have hrest : k - 255 * ((k - 255 - 1) / 255 + 1) = k - 255 - 255 * ((k - 255 - 1) / 255) := by omega
  simp [segmentLengths, hdiv, hrest, List.replicate_succ]

/-! ### What ENGINE has still to do -/

/-- The micro-states from the frame's START to the last payload byte. -/
def Micro.streaming : Micro → Bool
  | .hNack | .hTx | .hPush | .rpTcr | .pSetNb | .pClrRl | .pNack | .pTx | .pPush => true
  | .idle | .chkBusy | .setAddr | .setDir | .setNbH | .setAe | .setRl | .start | .rjClrN | .rjClrRl | .doneC | .doneR => false

theorem Micro.sending_of_streaming {m : Micro} (h : m.streaming = true) : m.sending = true := by
  cases m
  case hNack | hTx | hPush | rpTcr | pSetNb | pClrRl | pNack | pTx | pPush => rfl
  all_goals cases h

/-- The payload bytes in segments not yet programmed; none once the final one is. -/
def Engine.later (e : Engine) : Option Nat :=
  match e.ms with
  | .hNack | .hTx | .hPush | .rpTcr | .pSetNb => some e.rem.toNat
  | .pNack | .pTx | .pPush => if e.seg.setWidth 32 = e.rem then none else some (e.rem.toNat - e.seg.toNat)
  | _ => none

/-- The SETNBYTES operands still to be issued. -/
def Engine.lengthsLeft (e : Engine) : List Byte := e.later.elim [] segmentLengths

/-- How many times reload is still to be cleared. -/
def Engine.clearsLeft (e : Engine) : Nat := if e.ms = .pClrRl then 1 else e.later.elim 0 fun _ => 1

/-- The ops still to be issued, when no poll has to be repeated: three for each byte of the segment, and what comes later. -/
def Engine.opsLeft (e : Engine) : Nat :=
  match e.ms with
  | .hNack | .pNack => e.later.elim 0 reloadOps + 3 * e.seg.toNat
  | .hTx | .pTx => e.later.elim 0 reloadOps + 3 * e.seg.toNat - 1
  | .hPush | .pPush => e.later.elim 0 reloadOps + 3 * e.seg.toNat - 2
  | .rpTcr => e.later.elim 0 reloadOps
  | .pSetNb => e.later.elim 0 reloadOps - 1
  | .pClrRl => 3 * e.seg.toNat + 1
  | _ => 0

/-- The SETNBYTES operand of an op. -/
def opLengths : Instr → List Byte
  | .setnbytes n => [n]
  | .setaddr _ | .setdir _ | .push _ | .setautoend _ | .setreload _ | .start => []
  | .polltxis | .polltcr | .pollnack | .clrnack | .pollbusy | .go => []

/-- The lengths programmed by a trace with one more op. -/
theorem lengthsOf_append {i : Instr} (hi : i.isOp = true) (tr : List OpRecord) (r : Option Bool) :
    lengthsOf (tr ++ [⟨encodeOp i, r⟩]) = lengthsOf tr ++ opLengths i := by
  induction tr with
  | nil =>
    simp only [List.nil_append, lengthsOf, decodeOp_encodeOp hi]
    cases i <;> rfl
  | cons x tr ih =>
    simp only [List.cons_append, lengthsOf, ih]
    split <;> simp

/-- ENGINE spends op `i` of what it has to do and goes on streaming, or completes. -/
structure Engine.Spends (e e' : Engine) (i : Instr) : Prop where
  stage : e'.ms.streaming = true ∨ e'.ms = .doneC
  ops : e.opsLeft = e'.opsLeft + 1
  lengths : e.lengthsLeft = opLengths i ++ e'.lengthsLeft
  clears : e.clearsLeft = (if i = .setreload false then 1 else 0) + e'.clearsLeft

section Spends

variable {e : Engine}

/-- A header byte leaves the payload to come. -/
theorem spends_headerSent (h : e.Counted) (hms : e.ms = .hPush) (b : Byte) : e.Spends e.headerSent (.push b) := by
  obtain ⟨-, hpos, -⟩ : e.countedIn .hPush := hms ▸ h.counters
  have hpred := toNat_pred hpos
  have hlater : e.headerSent.later = e.later := by
    by_cases hzero : e.seg - 1#8 = 0#8 <;> simp [Engine.later, hms, hzero]
  refine ⟨?_, ?_, by rw [Engine.lengthsLeft, Engine.lengthsLeft, hlater]; rfl, ?_⟩
  · by_cases hzero : e.seg - 1#8 = 0#8 <;> simp [hzero, Micro.streaming]
  · by_cases hzero : e.seg - 1#8 = 0#8
    · rw [hzero] at hpred
      simp only [Engine.opsLeft, hms, hlater, Engine.headerSent_ms, hzero, if_true]
      simp at hpred; omega
    · simp only [Engine.opsLeft, hms, hlater, Engine.headerSent_ms, hzero, if_false, Engine.headerSent_seg, hpred]
      omega
  · by_cases hzero : e.seg - 1#8 = 0#8 <;> simp [Engine.clearsLeft, hlater, hms, hzero]

/-- A payload byte leaves the segments to come. -/
theorem later_payloadSent (h : e.Counted) (hms : e.ms = .pPush) : e.payloadSent.later = e.later := by
  obtain ⟨-, hpos, hle, -⟩ : e.countedIn .pPush := hms ▸ h.counters
  have hpred := toNat_pred hpos
  have hrem := toNat_pred_word (w := e.rem) (by omega)
  have hfinal : (e.seg - 1#8).setWidth 32 = e.rem - 1#32 ↔ e.seg.setWidth 32 = e.rem := by
    rw [setWidth_pred hpos]; exact sub_left_inj
  by_cases hseg : e.seg - 1#8 = 0#8
  · have hone : e.seg.toNat = 1 := by rw [hseg] at hpred; simp at hpred; omega
    by_cases hlast : e.rem - 1#32 = 0#32
    · have hsame := hfinal.1 (by rw [hseg, hlast]; rfl)
      simp [Engine.later, Engine.payloadSent_ms, hseg, hlast, hms, hsame]
    · have hmore : ¬ e.seg.setWidth 32 = e.rem := fun hs => hlast (by rw [← hfinal.2 hs, hseg]; rfl)
      simp only [Engine.later, Engine.payloadSent_ms, hseg, hlast, hms, hmore, ne_eq, not_true_eq_false, not_false_eq_true,
        if_true, if_false, Engine.payloadSent_rem, hrem, hone]
  · simp only [Engine.later, Engine.payloadSent_ms, hseg, hms, ne_eq, not_false_eq_true, if_true, Engine.payloadSent_seg,
      Engine.payloadSent_rem, hfinal, hpred, hrem]
    congr 2; omega

/-- A payload byte is one of its segment's. -/
theorem spends_payloadSent (h : e.Counted) (hms : e.ms = .pPush) (b : Byte) : e.Spends e.payloadSent (.push b) := by
  obtain ⟨-, hpos, hle, -⟩ : e.countedIn .pPush := hms ▸ h.counters
  have hpred := toNat_pred hpos
  have hlater := later_payloadSent h hms
  refine ⟨?_, ?_, by rw [Engine.lengthsLeft, Engine.lengthsLeft, hlater]; rfl, ?_⟩
  · rw [Engine.payloadSent_ms]
    split_ifs <;> simp [Micro.streaming]
  · by_cases hseg : e.seg - 1#8 = 0#8
    · have hone : e.seg.toNat = 1 := by rw [hseg] at hpred; simp at hpred; omega
      by_cases hlast : e.rem - 1#32 = 0#32
      · have hnone : e.later = none := by
          rw [← hlater]; simp [Engine.later, Engine.payloadSent_ms, hseg, hlast]
        simp [Engine.opsLeft, Engine.payloadSent_ms, hseg, hlast, hms, hnone, hone]
      · simp [Engine.opsLeft, Engine.payloadSent_ms, hseg, hlast, hms, hlater, hone]
    · simp only [Engine.opsLeft, Engine.payloadSent_ms, hseg, hms, hlater, ne_eq, not_false_eq_true, if_true,
        Engine.payloadSent_seg, hpred]
      omega
  · have hms' : e.payloadSent.ms ≠ .pClrRl := by rw [Engine.payloadSent_ms]; split_ifs <;> simp
    simp [Engine.clearsLeft, hlater, hms, hms']

/-- Programming a segment takes its length off those to come (R187). -/
theorem spends_segment (hms : e.ms = .pSetNb) :
    e.Spends { e with seg := segmentLen e.rem, ms := if isFinal e.rem then .pClrRl else .pNack }
      (.setnbytes (segmentLen e.rem)) := by
  have hlen := segmentLen_toNat e.rem
  by_cases hfinal : isFinal e.rem = true
  · have hle := (isFinal_iff e.rem).1 hfinal
    have hseg : segmentLen e.rem = BitVec.ofNat 8 e.rem.toNat := by
      apply BitVec.eq_of_toNat_eq; rw [hlen, BitVec.toNat_ofNat]; omega
    refine ⟨by simp [hfinal, Micro.streaming], ?_, ?_, ?_⟩
    · simp only [Engine.opsLeft, Engine.later, hms, hfinal, if_true, Option.elim_some, reloadOps_of_le hle, hlen]
      omega
    · simp [Engine.lengthsLeft, Engine.later, hms, hfinal, segmentLengths_of_le hle, opLengths, hseg]
    · simp [Engine.clearsLeft, Engine.later, hms, hfinal]
  · have hgt : 255 < e.rem.toNat := by have := mt (isFinal_iff e.rem).2 hfinal; omega
    have hne : ¬ 255#32 = e.rem := fun he => by rw [← he] at hgt; simp at hgt
    have hseg : segmentLen e.rem = 255#8 := by
      apply BitVec.eq_of_toNat_eq; rw [hlen, BitVec.toNat_ofNat]; omega
    refine ⟨by simp [hfinal, Micro.streaming], ?_, ?_, ?_⟩
    · simp [Engine.opsLeft, Engine.later, hms, hfinal, hseg, hne, reloadOps_of_gt hgt]
    · simp [Engine.lengthsLeft, Engine.later, hms, hfinal, hseg, hne, segmentLengths_of_gt hgt, opLengths]
    · simp [Engine.clearsLeft, Engine.later, hms, hfinal, hseg, hne]

/-- Clearing reload is the last thing to do for an empty payload, and the final segment's bytes follow for any other (R189). -/
theorem spends_cleared (h : e.Counted) (hms : e.ms = .pClrRl) :
    e.Spends (if e.seg = 0#8 then e.complete else e.at .pNack) (.setreload false) := by
  obtain ⟨-, hfinal, -⟩ : e.countedIn .pClrRl := hms ▸ h.counters
  by_cases hzero : e.seg = 0#8 <;>
    constructor <;>
    simp [hzero, Micro.streaming, Engine.opsLeft, Engine.lengthsLeft, Engine.clearsLeft, Engine.later, hms, hfinal, opLengths]

end Spends

/-- ENGINE's op in the streaming micro-states is one of those to come, when every byte is acknowledged and every wait finds its
flag set. -/
theorem spends_turn {p : Params} {d : Nat} {s : State} {i : Instr} {r : Option Bool} (hcnt : s.eng.Counted)
    (hms : s.eng.ms.streaming = true) (hi : engineOp p d s = some i) (hnack : i = .pollnack → r = some false)
    (hready : i = .polltxis ∨ i = .polltcr → r = some true) : s.eng.Spends (s.eng.turn r) i := by
  have hcounters := hcnt.counters
  cases hms' : s.eng.ms <;> rw [hms'] at hms hcounters <;> simp only [engineOp, hms'] at hi <;> simp only [Engine.turn, hms']
  case hPush =>
    obtain ⟨b, -, rfl⟩ := Option.map_eq_some_iff.1 hi
    exact spends_headerSent hcnt hms' b
  case pPush =>
    obtain ⟨b, -, rfl⟩ := Option.map_eq_some_iff.1 hi
    exact spends_payloadSent hcnt hms' b
  case idle | chkBusy | setAddr | setDir | setNbH | setAe | setRl | start | rjClrN | rjClrRl | doneC | doneR => cases hms
  all_goals cases hi
  case pSetNb => exact spends_segment hms'
  case pClrRl => exact spends_cleared hcnt hms'
  case hNack | pNack =>
    obtain ⟨-, hpos, -⟩ := hcounters
    rw [hnack rfl]
    refine ⟨.inl rfl, ?_, ?_, ?_⟩
    · simp [Engine.opsLeft, Engine.later, hms']; omega
    · simp [Engine.lengthsLeft, Engine.later, hms', opLengths]
    · simp [Engine.clearsLeft, Engine.later, hms']
  case hTx | pTx =>
    obtain ⟨-, hpos, -⟩ := hcounters
    rw [hready (.inl rfl)]
    refine ⟨.inl rfl, ?_, ?_, ?_⟩
    · simp [Engine.opsLeft, Engine.later, hms']; omega
    · simp [Engine.lengthsLeft, Engine.later, hms', opLengths]
    · simp [Engine.clearsLeft, Engine.later, hms']
  case rpTcr =>
    rw [hready (.inr rfl)]
    refine ⟨.inl rfl, ?_, ?_, ?_⟩
    · simp [Engine.opsLeft, Engine.later, hms', reloadOps]; omega
    · simp [Engine.lengthsLeft, Engine.later, hms', opLengths]
    · simp [Engine.clearsLeft, Engine.later, hms']

/-- A completed request has nothing left to do, and a streaming one has something. -/
theorem opsLeft_pos {e : Engine} (h : e.Counted) (hms : e.ms.streaming = true) : 0 < e.opsLeft := by
  have hcounters := h.counters
  cases hms' : e.ms <;> rw [hms'] at hms hcounters
  case hNack | hTx | hPush | pNack | pTx | pPush =>
    obtain ⟨-, hpos, -⟩ := hcounters
    simp only [Engine.opsLeft, hms']; omega
  case rpTcr => simp [Engine.opsLeft, Engine.later, hms', reloadOps]
  case pSetNb =>
    have : 1 ≤ segmentCount e.rem.toNat := le_max_left _ _
    simp only [Engine.opsLeft, Engine.later, hms', Option.elim_some, reloadOps]
    omega
  case pClrRl => simp [Engine.opsLeft, hms']
  all_goals cases hms

/-! ### BUS settles -/

/-- BUS's move always has a next state. -/
theorem busStep_next (p : Params) (a : Ack) (s : State) : ∃ t, busStep p a s = .next t := by
  have hbyte : (s.ctl.phase = .addr ∨ s.ctl.phase = .data) → ∃ t, busStep p a s = .next t := fun hph => by
    rw [busStep_byte hph]
    cases a with
    | nack => exact ⟨_, rfl⟩
    | ack => cases h : s.ctl.afterAck <;> exact ⟨_, by rw [answered, h]⟩
  cases hph : s.ctl.phase
  case addr => exact hbyte (.inl hph)
  case data => exact hbyte (.inr hph)
  case segEmpty => rw [busStep, hph]; simp only [busEmpty]; split_ifs <;> exact ⟨_, rfl⟩
  case nackHold => rw [busStep, hph]; simp only [busNackRelease]; split_ifs <;> exact ⟨_, rfl⟩
  all_goals simp [busStep, hph, busStop]

/-- At most so many steps of BUS follow one another. -/
def Phase.busSteps : Phase → Nat
  | .addr | .data | .segEmpty => 2
  | .stopping | .nackHold => 1
  | .free | .awaitTx | .reloadWait => 0

/-- Each enabled step of BUS brings it nearer to rest, unless it raises a fault. -/
theorem busStep_busSteps {p : Params} {a : Ack} {s t : State} (hen : busEnabled p s = true)
    (h : busStep p a s = .next t) (ht : t.fault = []) : t.ctl.phase.busSteps < s.ctl.phase.busSteps := by
  obtain ⟨hoff, -⟩ | ⟨hph, -, rfl⟩ | ⟨hph, -, c, hc, rfl⟩ | ⟨-, -, rfl⟩ | ⟨hph, -, -, rfl⟩ | ⟨hph, rfl⟩ := busStep_inv h
  · cases hen.symm.trans hoff
  · obtain hph | hph := hph <;> simp [hph, Phase.busSteps]
  · obtain ⟨-, ha⟩ | ⟨-, -, ha⟩ | ⟨-, -, -, ha⟩ | ⟨-, -, -, ha⟩ := afterAck_cases s.ctl <;> cases hc.symm.trans ha <;>
      obtain hph | hph := hph <;> simp [hph, Phase.busSteps]
  · exact absurd ht (raise_fault_ne_nil s _)
  · simp [hph, Phase.busSteps]
  · obtain hph | ⟨hph, -⟩ := hph <;> simp [hph, Phase.busSteps]

/-- What each step of BUS with answer ACK keeps, without a fault, holds once BUS has settled. -/
theorem settle_of_kept {p : Params} {P : State → Prop} (hfault : ∀ {s}, P s → s.fault = [])
    (hkept : ∀ {s t}, P s → busStep p .ack s = .next t → P t) {n : Nat} {s : State} (hs : P s)
    (hn : s.ctl.phase.busSteps ≤ n) : ∃ u, settle p n s = .next u ∧ P u ∧ busEnabled p u = false := by
  induction n generalizing s with
  | zero =>
    refine ⟨s, rfl, hs, ?_⟩
    cases hph : s.ctl.phase <;> simp [hph, Phase.busSteps, busEnabled] at hn ⊢
  | succ n ih =>
    cases hen : busEnabled p s with
    | false => exact ⟨s, by simp [settle, hen], hs, hen⟩
    | true =>
      obtain ⟨t, ht⟩ := busStep_next p .ack s
      have hstep : settle p (n + 1) s = settle p n t := by simp [settle, hen, ht]
      have hless := busStep_busSteps hen ht (hfault (hkept hs ht))
      rw [hstep]
      exact ih (hkept hs ht) (by omega)

theorem Phase.busSteps_le (ph : Phase) : ph.busSteps ≤ 3 := by cases ph <;> decide

/-! ### The frame on the wire -/

/-- The byte on the bus that the device has still to acknowledge. -/
def Ctrl.pending (c : Ctrl) : List WireEvent := if c.phase = .addr ∨ c.phase = .data then [c.byteEvent .ack] else []

/-- The P that has been sent when the bus is free again. -/
def Ctrl.stopped (c : Ctrl) : List WireEvent := if c.phase = .free then [.stop] else []

/-- S, the address byte, and data bytes, each acknowledged. -/
def frameEvents (a : BitVec 7) (bs : List Byte) : List WireEvent := [.start, .addr a false .ack] ++ bs.map (.data · .ack)

/-- One more data byte in a frame. -/
theorem frameEvents_append (a : BitVec 7) (bs bs' : List Byte) :
    frameEvents a (bs ++ bs') = frameEvents a bs ++ bs'.map (.data · .ack) := by
  simp [frameEvents]

/-- After ENGINE has sent all of a payload of `k` bytes: the last byte is still to be acknowledged, or the auto-stop is due or
sent; an empty payload has its auto-stop if the parameter says so (R117). -/
def Ctrl.ending (p : Params) (c : Ctrl) (k : Word) : Prop :=
  (k ≠ 0#32 ∧ ((c.phase = .data ∧ c.nbytes = 0#8) ∨ c.phase = .stopping ∨ c.phase = .free)) ∨
  (k = 0#32 ∧ (c.phase = .segEmpty ∨ ((c.phase = .stopping ∨ c.phase = .free) ∧ p.emptyFinalSegment = .stop)))

/-- BUS moves the pending byte, and P, to the wire. -/
theorem busStep_wire {p : Params} {s t : State} {w : List WireEvent} (h : busStep p .ack s = .next t) (ht : t.fault = [])
    (hw : s.wire ++ s.ctl.pending = w ++ s.ctl.stopped) : t.wire ++ t.ctl.pending = w ++ t.ctl.stopped := by
  obtain ⟨-, rfl⟩ | ⟨-, hack, -⟩ | ⟨hph, -, c, hc, rfl⟩ | ⟨-, -, rfl⟩ | ⟨hph, -, -, rfl⟩ | ⟨hph, rfl⟩ := busStep_inv h
  · exact hw
  · cases hack
  · have hopen : s.ctl.phase ≠ .free := by obtain hph | hph := hph <;> simp [hph]
    simp only [Ctrl.pending, hph, if_true, Ctrl.stopped, hopen, if_false] at hw
    obtain ⟨-, ha⟩ | ⟨-, -, ha⟩ | ⟨-, -, -, ha⟩ | ⟨-, -, -, ha⟩ := afterAck_cases s.ctl <;> cases hc.symm.trans ha <;>
      simpa [Ctrl.pending, Ctrl.stopped, State.log, State.withCtl] using hw
  · exact absurd ht (raise_fault_ne_nil s _)
  · simpa [Ctrl.pending, Ctrl.stopped, hph] using hw
  · have hw' : s.wire = w := by obtain hph | ⟨hph, -⟩ := hph <;> simpa [Ctrl.pending, Ctrl.stopped, hph] using hw
    simp [Ctrl.pending, Ctrl.stopped, hw']

/-- BUS brings the frame of a completed request to its end, reload being clear. -/
theorem busStep_ending {p : Params} {s t : State} {k : Word} (h : busStep p .ack s = .next t) (hreload : s.ctl.reload = false)
    (hs : s.ctl.ending p k) : t.ctl.ending p k := by
  obtain ⟨-, rfl⟩ | ⟨-, hack, -⟩ | ⟨hph, -, c, hc, rfl⟩ | ⟨-, -, rfl⟩ | ⟨hph, -, hstop, rfl⟩ | ⟨hph, rfl⟩ := busStep_inv h
  · exact hs
  · cases hack
  · obtain ⟨hn, ha⟩ | ⟨-, hr, -⟩ | ⟨-, -, -, ha⟩ | ⟨-, -, -, ha⟩ := afterAck_cases s.ctl
    · obtain hph | hph := hph <;> simp [Ctrl.ending, hph, hn] at hs
    · simp [hreload] at hr
    · cases hc.symm.trans ha
      obtain hph | hph := hph <;> simp [Ctrl.ending, hph] at hs ⊢
      exact .inl hs.1
    · cases hc.symm.trans ha
  · exact hs
  · simp only [Ctrl.ending, hph] at hs
    simp_all [Ctrl.ending]
  · obtain hph | ⟨hph, -⟩ := hph <;> simp_all [Ctrl.ending]

/-- An op other than START, issued while the device has no byte to acknowledge, puts on the bus the byte it pushes. -/
theorem opCtrl_wire {c c' : Ctrl} {i : Instr} (h : opCtrl c i = some c') (hc : c.Consistent) (hstart : i ≠ .start)
    (hquiet : c.pending = []) :
    opEvents i = [] ∧ c'.pending = (opPushes i).map (.data · .ack) ∧ c'.stopped = c.stopped ∧
      (opPushes i = [] ∨ c.stopped = []) := by
  have hidle : ¬ (c.phase = .addr ∨ c.phase = .data) := fun hph => by simp [Ctrl.pending, hph] at hquiet
  obtain ⟨hsame, hev⟩ | ⟨rfl, -⟩ | ⟨n, rfl, hph, rfl⟩ | ⟨b, rfl, hx, rfl⟩ := opCtrl_cases h
  · have hpush : opPushes i = [] := by
      cases i with
      | push b =>
        simp only [opCtrl] at h
        split_ifs at h
        cases h
        exact absurd (.inr hsame.phase.symm) hidle
      | _ => rfl
    refine ⟨hev, ?_, ?_, .inl hpush⟩
    · rw [hpush, Ctrl.pending, hsame.phase, if_neg hidle]; rfl
    · rw [Ctrl.stopped, Ctrl.stopped, hsame.phase]
  · exact absurd rfl hstart
  · refine ⟨rfl, ?_, ?_, .inl rfl⟩ <;> by_cases hn : n = 0#8 <;> simp [Ctrl.pending, Ctrl.stopped, hph, hn, opPushes]
  · have hph := hc.txis.1 hx
    have hopen : c.stopped = [] := by simp [Ctrl.stopped, hph]
    exact ⟨rfl, by simp [Ctrl.pending, Ctrl.byteEvent, opPushes], by rw [hopen]; simp [Ctrl.stopped], .inr hopen⟩

/-- ENGINE completes when it has pushed the last byte, or cleared reload for an empty payload (R189, R192). -/
theorem ending_turn {p : Params} {d : Nat} {s : State} {i : Instr} {c : Ctrl} {r : Option Bool} (hs : s.Coupled)
    (hms : s.eng.ms.streaming = true) (hi : engineOp p d s = some i) (hc : opCtrl s.ctl i = some c)
    (hdone : (s.eng.turn r).ms = .doneC) : c.ending p s.eng.lPl := by
  have hcounters := hs.engine.counters
  have hremLe := hs.engine.remLe
  have hstage := hs.link.stage
  cases hms' : s.eng.ms <;> rw [hms'] at hms hcounters hstage <;> simp only [engineOp, hms'] at hi <;>
    simp only [Engine.turn, hms'] at hdone
  case idle | chkBusy | setAddr | setDir | setNbH | setAe | setRl | start | rjClrN | rjClrRl | doneC | doneR => cases hms
  case hNack | pNack | hTx | pTx | rpTcr | pSetNb => split_ifs at hdone <;> cases hdone
  case hPush => rw [Engine.headerSent_ms] at hdone; split_ifs at hdone
  case pClrRl =>
    cases hi
    obtain ⟨-, hfinal, hsome, -⟩ := hcounters
    obtain ⟨-, hn, hph⟩ := hstage
    split_ifs at hdone with hzero
    · have hrem : s.eng.rem = 0#32 := by rw [← hfinal, hzero]; rfl
      obtain ⟨-, hseg⟩ | ⟨hph, -⟩ := hph
      · exact absurd hzero hseg
      · have hcleared : opCtrl s.ctl (.setreload false) = some { s.ctl with reload := false } := if_pos (.inr (by simp [hph]))
        cases hc.symm.trans hcleared
        exact .inr ⟨by obtain h | h := hsome; exacts [absurd hrem h, h.symm.trans hrem], .inl hph⟩
    · cases hdone
  case pPush =>
    obtain ⟨b, -, rfl⟩ := Option.map_eq_some_iff.1 hi
    obtain ⟨-, hpos, hle, -⟩ := hcounters
    obtain ⟨-, -, hn⟩ := hstage
    simp only [opCtrl] at hc
    split_ifs at hc
    cases hc
    rw [Engine.payloadSent_ms] at hdone
    have hseg : s.eng.seg - 1#8 = 0#8 := by
      by_contra hseg
      rw [if_pos hseg] at hdone
      cases hdone
    refine .inl ⟨fun hk => ?_, .inl ⟨rfl, by rw [Ctrl.takeByte_nbytes, hn, hseg]⟩⟩
    rw [hk] at hremLe
    simp at hremLe
    omega

/-! ### The request on its way -/

/-- A streaming state whose buffers can be read has an op to issue. -/
theorem engineOp_of_readable {p : Params} {s : State} (hcnt : s.eng.Counted) (hms : s.eng.ms.streaming = true)
    (hheader : readable p s.eng.lHp s.eng.lHl.toNat) (hpayload : readable p s.eng.lPp s.eng.lPl.toNat) :
    ∃ i, engineOp p 0 s = some i := by
  have hread : ∀ {base len k : Word}, readable p base len.toNat → k.toNat < len.toNat →
      ∃ b, (memRead p 0 s base len k).byte? = some b := by
    intro base len k ⟨hplaced, hadmit⟩ hk
    have hbyte := hadmit k.toNat hk
    rw [BitVec.ofNat_toNat, BitVec.setWidth_eq] at hbyte
    exact ⟨_, by rw [memRead, hplaced, hbyte]; rfl⟩
  have hcounters := hcnt.counters
  have hremLe := hcnt.remLe
  cases hms' : s.eng.ms <;> rw [hms'] at hms hcounters <;> simp only [engineOp, hms']
  case idle | chkBusy | setAddr | setDir | setNbH | setAe | setRl | start | rjClrN | rjClrRl | doneC | doneR => cases hms
  case hPush =>
    obtain ⟨-, hpos, hle, -⟩ := hcounters
    obtain ⟨b, hb⟩ := hread (k := headerIndex s.eng) hheader (by
      rw [headerIndex, ← ofNat_toNat_sub (by rwa [toNat_setWidth_word]), toNat_setWidth_word, BitVec.toNat_ofNat]
      omega)
    exact ⟨_, by rw [hb]; rfl⟩
  case pPush =>
    obtain ⟨-, hpos, hle, -⟩ := hcounters
    obtain ⟨b, hb⟩ := hread (k := payloadIndex s.eng) hpayload (by
      rw [payloadIndex, ← ofNat_toNat_sub hremLe, BitVec.toNat_ofNat]
      omega)
    exact ⟨_, by rw [hb]; rfl⟩
  all_goals exact ⟨_, rfl⟩

/-- Once BUS has settled and no byte has been refused, ENGINE's polls find the flag they wait for. -/
theorem polls_ready {p : Params} {s : State} {i : Instr} (hs : s.Coupled) (hnack : s.ctl.nackf = false)
    (hsettled : busEnabled p s = false) (hms : s.eng.ms.streaming = true) (hi : engineOp p 0 s = some i) :
    i = .polltxis ∨ i = .polltcr → opReply s.ctl i = some true := by
  have hstage := hs.link.stage
  have hsegment : s.ctl.inSegment s.eng.seg → s.ctl.txis = true := by
    rintro (⟨hph | hph | hph, -⟩ | ⟨-, hrefused⟩)
    · simp [busEnabled, hph] at hsettled
    · exact hs.ctrl.txis.2 hph
    · simp [busEnabled, hph] at hsettled
    · simp [hnack] at hrefused
  cases hms' : s.eng.ms <;> rw [hms'] at hms hstage <;> simp only [engineOp, hms'] at hi
  case hPush => obtain ⟨b, -, rfl⟩ := Option.map_eq_some_iff.1 hi; simp
  case pPush => obtain ⟨b, -, rfl⟩ := Option.map_eq_some_iff.1 hi; simp
  case idle | chkBusy | setAddr | setDir | setNbH | setAe | setRl | start | rjClrN | rjClrRl | doneC | doneR => cases hms
  all_goals cases hi
  case hTx => exact fun _ => congrArg some (hsegment hstage.2)
  case pTx => exact fun _ => congrArg some (hsegment hstage.2.2)
  case rpTcr =>
    refine fun _ => congrArg some (hs.ctrl.tcr.2 ?_)
    obtain ⟨-, ⟨hph | hph | hph, -⟩ | ⟨-, hrefused⟩⟩ := hstage
    · simp [busEnabled, hph] at hsettled
    · simp [busEnabled, hph] at hsettled
    · exact hph
    · simp [hnack] at hrefused
  all_goals simp

/-- ENGINE streams, or has completed, the request that `h` holds. -/
structure Engine.Streams (e : Engine) (h : HostRegs) : Prop where
  headerAt : e.lHp = h.hdrPtr
  headerLen : e.lHl = h.hdrLen
  payloadAt : e.lPp = h.payPtr
  payloadLen : e.lPl = h.payLen
  stage : e.ms.streaming = true ∨ e.ms = .doneC

/-- The request of `s₀` under the eager schedule with every answer ACK, from its START on: what has been issued and what is
still to come make up the whole request, and the wire shows what has been issued. -/
structure Eager (p : Params) (s₀ s : State) : Prop where
  coupled : s.Coupled
  accepted : s.ctl.nackf = false
  mem : s.mem = s₀.mem
  kept : s.stale = []
  streams : s.eng.Streams s₀.host
  sent : pushesOf s.trace = sentBytes p s
  ops : s.trace.length + s.eng.opsLeft = opCount s₀.host.hdrLen.toNat s₀.host.payLen.toNat
  lengths : lengthsOf s.trace ++ s.eng.lengthsLeft = s₀.host.hdrLen.setWidth 8 :: segmentLengths s₀.host.payLen.toNat
  clears : countOf (.setreload false) s.trace + s.eng.clearsLeft = 1
  wire : s.wire ++ s.ctl.pending = s₀.wire ++ frameEvents s₀.host.addr (pushesOf s.trace) ++ s.ctl.stopped
  ending : s.eng.ms = .doneC → s.ctl.ending p s.eng.lPl

/-- BUS with answer ACK keeps the request on its way, and ENGINE and the trace as they are. -/
theorem Eager.busStep {p : Params} {s₀ s t : State} (hs : Eager p s₀ s) (h : busStep p .ack s = .next t) :
    Eager p s₀ t ∧ t.eng = s.eng ∧ t.trace = s.trace := by
  have hcoupled := hs.coupled.busStep h
  have hwire := busStep_wire h hcoupled.noFault hs.wire
  have hnack : t.ctl.nackf = false := by
    obtain ⟨-, rfl⟩ | ⟨-, hack, -⟩ | ⟨-, -, c, hc, rfl⟩ | ⟨-, -, rfl⟩ | ⟨-, -, -, rfl⟩ | ⟨-, rfl⟩ := busStep_inv h
    · exact hs.accepted
    · cases hack
    · exact (afterAck_nackf hc).trans hs.accepted
    all_goals exact hs.accepted
  have hending : s.eng.ms = .doneC → t.ctl.ending p s.eng.lPl := fun hdone =>
    busStep_ending h (hs.coupled.link.reload_of_inactive (by rw [hdone]; rfl)) (hs.ending hdone)
  obtain ⟨c, w, f, rfl⟩ := busStep_frame h
  exact ⟨{ hs with coupled := hcoupled, accepted := hnack, wire := hwire, ending := hending }, rfl, rfl⟩

/-- BUS settles on the request's way. -/
theorem Eager.settle {p : Params} {s₀ s : State} (hs : Eager p s₀ s) :
    ∃ u, settle p 3 s = .next u ∧ (Eager p s₀ u ∧ u.eng = s.eng ∧ u.trace = s.trace) ∧ busEnabled p u = false :=
  settle_of_kept (P := fun u => Eager p s₀ u ∧ u.eng = s.eng ∧ u.trace = s.trace) (fun hu => hu.1.coupled.noFault)
    (fun ⟨hu, heng, htrace⟩ h =>
      have ⟨ht, heng', htrace'⟩ := hu.busStep h
      ⟨ht, heng'.trans heng, htrace'.trans htrace⟩)
    ⟨hs, rfl, rfl⟩ (Phase.busSteps_le _)

/-- ENGINE's step spends one op of a request on its way. -/
theorem Eager.engineStep {p : Params} {s₀ s : State} (hs : Eager p s₀ s) (hsettled : busEnabled p s = false)
    (hms : s.eng.ms.streaming = true) (hheader : readable p s₀.host.hdrPtr s₀.host.hdrLen.toNat)
    (hpayload : readable p s₀.host.payPtr s₀.host.payLen.toNat) :
    ∃ t, engineStep p 0 s = .next t ∧ Eager p s₀ t ∧ t.trace.length = s.trace.length + 1 := by
  have hstreams := hs.streams
  obtain ⟨i, hi⟩ := engineOp_of_readable hs.coupled.engine hms (by rwa [hstreams.headerAt, hstreams.headerLen])
    (by rwa [hstreams.payloadAt, hstreams.payloadLen])
  have hop := engineOp_isOp hi
  obtain ⟨c, hc, -⟩ := hs.coupled.turn hi
  have hspends := spends_turn (r := opReply s.ctl i) hs.coupled.engine hms hi
    (by rintro rfl; exact congrArg some hs.accepted) (polls_ready hs.coupled hs.accepted hsettled hms hi)
  have hstart : i ≠ .start := by
    rintro rfl
    cases hms' : s.eng.ms <;> simp [engineOp, hms', Micro.streaming] at hi hms
  have hquiet : s.ctl.pending = [] := by
    refine if_neg ?_
    rintro (hph | hph) <;> simp [busEnabled, hph] at hsettled
  obtain ⟨hevents, hpending, hstopped, hnothing⟩ := opCtrl_wire hc hs.coupled.ctrl hstart hquiet
  have hpushes := pushesOf_append hop s.trace (opReply s.ctl i)
  refine ⟨s.afterTurn i c, engineStep_of_opCtrl hs.coupled.noFault hi hc, ?_, by simp [State.afterTurn]⟩
  refine ⟨hs.coupled.afterTurn hi hc, noRejection_opClosed.opCtrl (w := []) hc hs.accepted, hs.mem, hs.kept,
    ⟨?_, ?_, ?_, ?_, hspends.stage⟩, ?_, ?_, ?_, ?_, ?_, ?_⟩
  · exact (Engine.turn_lHp _ _).trans hstreams.headerAt
  · exact (Engine.turn_lHl _ _).trans hstreams.headerLen
  · exact (Engine.turn_lPp _ _).trans hstreams.payloadAt
  · exact (Engine.turn_lPl _ _).trans hstreams.payloadLen
  · calc pushesOf (s.trace ++ [⟨encodeOp i, opReply s.ctl i⟩])
      _ = sentOf p s s.eng ++ opPushes i := by rw [hpushes, hs.sent]; rfl
      _ = sentOf p s (s.eng.turn (opReply s.ctl i)) :=
        (sent_turn hs.coupled.engine hs.kept hi _ (hspends.stage.imp_left Micro.sending_of_streaming)).2.symm
  · have hcount := hs.ops
    rw [hspends.ops] at hcount
    simp only [State.afterTurn, List.length_append, List.length_singleton]
    omega
  · rw [← hs.lengths, hspends.lengths, ← List.append_assoc]
    exact congrArg (· ++ _) (lengthsOf_append hop _ _)
  · rw [← hs.clears, hspends.clears, ← Nat.add_assoc]
    exact congrArg (· + _) (countOf_append hop rfl _ _)
  · have hwire := hs.wire
    rw [hquiet, List.append_nil] at hwire
    have hmoved : s.ctl.stopped ++ (opPushes i).map (.data · .ack) =
        (opPushes i).map (WireEvent.data · .ack) ++ s.ctl.stopped := by
      obtain h | h := hnothing <;> simp [h]
    calc s.wire ++ opEvents i ++ c.pending
      _ = s₀.wire ++ frameEvents s₀.host.addr (pushesOf s.trace) ++ (s.ctl.stopped ++ (opPushes i).map (.data · .ack)) := by
        rw [hevents, hpending, hwire]; simp
      _ = s₀.wire ++ frameEvents s₀.host.addr (pushesOf s.trace ++ opPushes i) ++ c.stopped := by
        rw [hmoved, hstopped, frameEvents_append]; simp
      _ = _ := by rw [← hpushes]; rfl
  · intro hdone
    have hend := ending_turn hs.coupled hms hi hc hdone
    rwa [← Engine.turn_lPl s.eng (opReply s.ctl i)] at hend

/-- As many rounds as there are ops to come complete the request. -/
theorem Eager.run {p : Params} {s₀ s : State} {n : Nat} (hs : Eager p s₀ s)
    (hheader : readable p s₀.host.hdrPtr s₀.host.hdrLen.toNat) (hpayload : readable p s₀.host.payPtr s₀.host.payLen.toNat)
    (hn : s.eng.opsLeft = n) : ∃ t, eagerRun p n s = .next t ∧ Eager p s₀ t ∧ t.eng.ms = .doneC := by
  induction n generalizing s with
  | zero =>
    obtain hms | hms := hs.streams.stage
    · have := opsLeft_pos hs.coupled.engine hms
      omega
    · exact ⟨s, rfl, hs, hms⟩
  | succ n ih =>
    have hms : s.eng.ms.streaming = true := hs.streams.stage.resolve_right fun hms => by
      simp [Engine.opsLeft, hms] at hn
    obtain ⟨u, hu, ⟨hsu, heng, htrace⟩, hsettled⟩ := hs.settle
    obtain ⟨t, ht, hst, hlength⟩ := hsu.engineStep hsettled (by rwa [heng]) hheader hpayload
    have hround : eagerRound p s = .next t := by rw [eagerRound, hu]; exact ht
    have hspent : t.eng.opsLeft = n := by
      have hbefore := hs.ops
      have hafter := hst.ops
      rw [hlength, htrace] at hafter
      omega
    obtain ⟨v, hv, hdone⟩ := ih hst hspent
    exact ⟨v, by rw [eagerRun, hround]; exact hv, hdone⟩

/-! ### The setup (R155 to R160) -/

/-- A settled round is ENGINE's step. -/
theorem eagerRun_engineStep {p : Params} {s t : State} (n : Nat) (hsettled : busEnabled p s = false)
    (h : engineStep p 0 s = .next t) : eagerRun p (n + 1) s = eagerRun p n t := by
  have hround : eagerRound p s = .next t := by simpa [eagerRound, settle, hsettled] using h
  simp [eagerRun, hround]

/-- With the bus free, a round is the op of the setup that ENGINE issues, which puts nothing on the wire. -/
theorem eagerRun_setupOp {p : Params} {s : State} {i : Instr} {c : Ctrl} (n : Nat) (hs : s.fault = [])
    (hfree : s.ctl.phase = .free) (hi : engineOp p 0 s = some i) (hc : opCtrl s.ctl i = some c) (hsilent : opEvents i = []) :
    eagerRun p (n + 1) s = eagerRun p n
      { s with
        eng := s.eng.turn (opReply s.ctl i), ctl := c, resp := opReply s.ctl i,
        trace := s.trace ++ [⟨encodeOp i, opReply s.ctl i⟩] } := by
  have hstep := engineStep_of_opCtrl hs hi hc
  rw [State.afterTurn, State.afterOp, hsilent, List.append_nil] at hstep
  exact eagerRun_engineStep n (by simp [busEnabled, hfree]) hstep

/-- The state in which GO of an accepted request leaves the block (R151, R152). -/
def State.accepted (s : State) : State := { s with eng := Engine.latch s.host .chkBusy, trace := [], stale := [] }

/-- CTRL after the setup ops. -/
def State.programmed (s : State) : Ctrl :=
  { s.ctl with
    sadd7 := s.host.addr, saddRest := 0#3, rdWrn := false, nbytes := s.host.hdrLen.setWidth 8, autoend := true, reload := true }

/-- The state in which ENGINE issues START. -/
def State.setUp (s : State) : State :=
  { s with
    eng := { Engine.latch s.host .start with seg := s.host.hdrLen.setWidth 8 }, ctl := s.programmed, resp := none, stale := [],
    trace := [] ++ [⟨encodeOp .pollbusy, some false⟩] ++ [⟨encodeOp (.setaddr s.host.addr), none⟩] ++
      [⟨encodeOp (.setdir false), none⟩] ++ [⟨encodeOp (.setnbytes (s.host.hdrLen.setWidth 8)), none⟩] ++
      [⟨encodeOp (.setautoend true), none⟩] ++ [⟨encodeOp (.setreload true), none⟩] }

/-- SETRELOAD 1 completes in every phase (R106). -/
theorem opCtrl_setreload_true (c : Ctrl) : opCtrl c (.setreload true) = some { c with reload := true } := by
  simp [opCtrl]

/-- Six rounds program the controller, the bus being free. -/
theorem eagerRun_accepted {p : Params} {s : State} (n : Nat) (hs : s.fault = []) (hfree : s.ctl.phase = .free)
    (hbusy : s.ctl.busy = false) : eagerRun p (n + 6) s.accepted = eagerRun p n s.setUp := by
  have hidle : busEnabled p s.accepted = false := by simp [State.accepted, busEnabled, hfree]
  calc eagerRun p (n + 6) s.accepted
    _ = eagerRun p (n + 5) _ :=
      eagerRun_engineStep (n + 5) hidle ((engineChecksTheBusIsIdle p 0 s.accepted hs rfl).1 hbusy)
    _ = eagerRun p (n + 4) _ := eagerRun_setupOp (i := .setaddr s.host.addr) (n + 4) hs hfree rfl (if_pos hfree) rfl
    _ = eagerRun p (n + 3) _ := eagerRun_setupOp (i := .setdir false) (n + 3) hs hfree rfl (if_pos hfree) rfl
    _ = eagerRun p (n + 2) _ :=
      eagerRun_setupOp (i := .setnbytes (s.host.hdrLen.setWidth 8)) (n + 2) hs hfree rfl (if_pos hfree) rfl
    _ = eagerRun p (n + 1) _ := eagerRun_setupOp (i := .setautoend true) (n + 1) hs hfree rfl (if_pos hfree) rfl
    _ = eagerRun p n s.setUp := eagerRun_setupOp (i := .setreload true) n hs hfree rfl (opCtrl_setreload_true _) rfl

/-- The state in which ENGINE issues START has ENGINE and the controller in step. -/
theorem setUp_coupled {s : State} (hs : s.fault = []) (hctrl : s.ctl.Consistent) (hfree : s.ctl.phase = .free)
    (hlen : s.host.hdrLen.toNat ≤ 255) : s.setUp.Coupled where
  noFault := hs
  ctrl := ⟨hctrl.busy, hctrl.txis, hctrl.tcr, fun hph => by cases hfree.symm.trans hph⟩
  engine := ⟨le_rfl, fun _ => hlen, ⟨rfl, rfl⟩, rfl, rfl, rfl⟩
  link := linked_of_free hfree ⟨rfl, hfree, rfl, rfl, rfl⟩

/-- Up to START a request has pushed nothing, programmed the header's length, and not cleared reload. -/
theorem setUp_trace (s : State) :
    pushesOf (s.setUp.trace ++ [⟨encodeOp .start, none⟩]) = [] ∧
      lengthsOf (s.setUp.trace ++ [⟨encodeOp .start, none⟩]) = [s.host.hdrLen.setWidth 8] ∧
      countOf (.setreload false) (s.setUp.trace ++ [⟨encodeOp .start, none⟩]) = 0 := by
  simp only [State.setUp]
  refine ⟨?_, ?_, ?_⟩
  · iterate 7 rw [pushesOf_append rfl]
    rfl
  · iterate 7 rw [lengthsOf_append rfl]
    rfl
  · iterate 7 rw [countOf_append rfl rfl]
    simp [countOf]

/-- After START the header's bytes and the whole payload are to come. -/
theorem setUp_turn {s : State} (hlen : s.host.hdrLen.toNat ≤ 255) :
    (s.setUp.eng.turn none).ms.streaming = true ∧
      (s.setUp.eng.turn none).opsLeft = reloadOps s.host.payLen.toNat + 3 * s.host.hdrLen.toNat ∧
      (s.setUp.eng.turn none).lengthsLeft = segmentLengths s.host.payLen.toNat ∧
      (s.setUp.eng.turn none).clearsLeft = 1 := by
  have hseg : (s.host.hdrLen.setWidth 8).toNat = s.host.hdrLen.toNat := headerLen_toNat (e := s.setUp.eng) hlen
  have hturn : s.setUp.eng.turn none = s.setUp.eng.at (if s.host.hdrLen.setWidth 8 = 0#8 then .rpTcr else .hNack) := rfl
  rw [hturn]
  split_ifs with hzero
  · have hempty : s.host.hdrLen.toNat = 0 := by rw [← hseg, hzero]; rfl
    rw [hempty]
    exact ⟨rfl, rfl, rfl, rfl⟩
  · rw [← hseg]
    exact ⟨rfl, rfl, rfl, rfl⟩

/-- Seven rounds issue START. -/
theorem eagerRun_start {p : Params} {s : State} (n : Nat) (hs : s.fault = []) (hfree : s.ctl.phase = .free)
    (hbusy : s.ctl.busy = false) :
    eagerRun p (n + 1 + 6) s.accepted = eagerRun p n (s.setUp.afterTurn .start s.programmed.openFrame) := by
  have hc : opCtrl s.setUp.ctl .start = some s.programmed.openFrame := if_pos ⟨hfree, rfl⟩
  have hidle : busEnabled p s.setUp = false := by simp [busEnabled, State.setUp, State.programmed, hfree]
  rw [eagerRun_accepted _ hs hfree hbusy, eagerRun_engineStep n hidle (engineStep_of_opCtrl hs rfl hc)]

/-- START puts the request on its way. -/
theorem setUp_eager {p : Params} {s : State} (hs : s.fault = []) (hctrl : s.ctl.Consistent) (hfree : s.ctl.phase = .free)
    (hnack : s.ctl.nackf = false) (hlen : s.host.hdrLen.toNat ≤ 255) :
    Eager p s (s.setUp.afterTurn .start s.programmed.openFrame) := by
  obtain ⟨hpushes, hlengths, hclears⟩ := setUp_trace s
  obtain ⟨hstage, hops, hlengthsLeft, hclearsLeft⟩ := setUp_turn hlen
  have hcoupled := setUp_coupled hs hctrl hfree hlen
  have hi : engineOp p 0 s.setUp = some .start := rfl
  have hc : opCtrl s.setUp.ctl .start = some s.programmed.openFrame := if_pos ⟨hfree, rfl⟩
  refine ⟨hcoupled.afterTurn hi hc, hnack, rfl, rfl, ⟨?_, ?_, ?_, ?_, .inl hstage⟩, ?_, ?_, ?_, ?_, ?_, fun hdone => ?_⟩
  · exact Engine.turn_lHp _ _
  · exact Engine.turn_lHl _ _
  · exact Engine.turn_lPp _ _
  · exact Engine.turn_lPl _ _
  · have hsent : sentOf p s.setUp s.setUp.eng = [] := by simp [sentOf, headerSentCount, State.setUp, Engine.latch]
    have hturn := (sent_turn hcoupled.engine rfl hi none (.inl (Micro.sending_of_streaming hstage))).2
    rw [hsent] at hturn
    exact hpushes.trans hturn.symm
  · refine (congrArg (7 + ·) hops).trans ?_
    simp only [reloadOps, opCount]
    omega
  · exact congrArg₂ (· ++ ·) hlengths hlengthsLeft
  · exact congrArg₂ (· + ·) hclears hclearsLeft
  · have hpushes' : pushesOf (s.setUp.afterTurn .start s.programmed.openFrame).trace = [] := hpushes
    rw [hpushes']
    simp [State.afterTurn, State.afterOp, opEvents, Ctrl.pending, Ctrl.stopped, Ctrl.byteEvent, State.setUp, State.programmed,
      frameEvents]
  · rw [show (s.setUp.eng.turn none).ms = .doneC from hdone] at hstage
    cases hstage

/-- What a request has sent when it has completed (R194). -/
theorem Eager.sent_all {p : Params} {s₀ s : State} (hs : Eager p s₀ s) (hdone : s.eng.ms = .doneC) :
    pushesOf s.trace =
      bufferBytes p s₀ s₀.host.hdrPtr s₀.host.hdrLen.toNat ++ bufferBytes p s₀ s₀.host.payPtr s₀.host.payLen.toNat := by
  have hstreams := hs.streams
  obtain ⟨hrem, -⟩ : s.eng.countedIn .doneC := hdone ▸ hs.coupled.engine.counters
  have hbuffer : ∀ (a : Addr) (n : Nat), bufferBytes p s a n = bufferBytes p s₀ a n := fun a n =>
    bufferBytes_congr fun _ _ => byteAt_congr hs.mem _
  simp [hs.sent, sentBytes, headerSentCount, hdone, hrem, hbuffer, hstreams.headerAt, hstreams.headerLen, hstreams.payloadAt,
    hstreams.payloadLen]

/-- Once BUS has settled after a completed request, the whole frame is on the wire, with P unless an empty payload stalls. -/
theorem Eager.wire_settled {p : Params} {s₀ s : State} (hs : Eager p s₀ s) (hdone : s.eng.ms = .doneC)
    (hsettled : busEnabled p s = false) :
    s.wire = s₀.wire ++ frameEvents s₀.host.addr (pushesOf s.trace) ++
      (if s₀.host.payLen ≠ 0#32 ∨ p.emptyFinalSegment = .stop then [.stop] else []) := by
  have hwire := hs.wire
  have hreload := hs.coupled.link.reload_of_inactive (by rw [hdone]; rfl)
  have hending := hs.ending hdone
  rw [hs.streams.payloadLen] at hending
  have hend : (s.ctl.phase = .free ∧ (s₀.host.payLen ≠ 0#32 ∨ p.emptyFinalSegment = .stop)) ∨
      (s.ctl.phase = .segEmpty ∧ ¬ (s₀.host.payLen ≠ 0#32 ∨ p.emptyFinalSegment = .stop)) := by
    obtain ⟨hk, ⟨hph, -⟩ | hph | hph⟩ | ⟨hk, hph | ⟨hph | hph, hstop⟩⟩ := hending
    · simp [busEnabled, hph] at hsettled
    · simp [busEnabled, hph] at hsettled
    · exact .inl ⟨hph, .inl hk⟩
    · simp [busEnabled, hph, hreload] at hsettled
      exact .inr ⟨hph, by simp [hk, hsettled]⟩
    · simp [busEnabled, hph] at hsettled
    · exact .inl ⟨hph, .inr hstop⟩
  obtain ⟨hph, hstop⟩ | ⟨hph, hstop⟩ := hend
  · simpa only [Ctrl.pending, Ctrl.stopped, hph, hstop, if_true, if_false, reduceCtorEq, or_self, List.append_nil] using hwire
  · simpa only [Ctrl.pending, Ctrl.stopped, hph, hstop, if_true, if_false, reduceCtorEq, or_self, List.append_nil] using hwire

/-- Settles O60: the setup and START lead into the request's way, on which each round spends one of the ops to come; REM is 0
at its end, and BUS then settles with the auto-stop sent, or in an empty segment that stalls. -/
theorem requestCompletesUnderTheEagerSchedule : Obligations.RequestCompletesUnderTheEagerSchedule := by
  intro p s g hs hoff hctrl hfree hnack hlen hheader hpayload hg
  have hbusy : s.ctl.busy = false := by simpa [hfree] using hctrl.busy
  have hgo : g = s.accepted := by
    cases (exec_go_of_inactive hoff).symm.trans hg
    rw [Engine.accept_short (by omega)]; rfl
  subst hgo
  have hstart := setUp_eager (p := p) hs hctrl hfree hnack hlen
  obtain ⟨t, ht, hst, hdone⟩ := hstart.run hheader hpayload (setUp_turn hlen).2.1
  obtain ⟨u, hu, ⟨hsu, heng, htrace⟩, hsettled⟩ := hst.settle
  have hcounters : t.eng.countedIn .doneC := hdone ▸ hst.coupled.engine.counters
  obtain ⟨-, -, hout, -, hpushed⟩ := hcounters
  have hcount : opCount s.host.hdrLen.toNat s.host.payLen.toNat =
      reloadOps s.host.payLen.toNat + 3 * s.host.hdrLen.toNat + 1 + 6 := by
    simp only [reloadOps, opCount]; omega
  have hops := hst.ops
  have hlengths := hst.lengths
  have hclears := hst.clears
  simp only [Engine.opsLeft, Engine.lengthsLeft, Engine.clearsLeft, Engine.later, hdone] at hops hlengths hclears
  refine ⟨t, ?_, hdone, hout, hst.coupled.noFault, hst.coupled.link.reload_of_inactive (by rw [hdone]; rfl), ?_, hops, ?_,
    hclears, hst.sent_all hdone, u, hu, ?_⟩
  · rw [hcount, eagerRun_start _ hs hfree hbusy]
    exact ht
  · rw [hpushed, hst.streams.headerLen, hst.streams.payloadLen]
  · simpa using hlengths
  · rw [hsu.wire_settled (by rw [heng, hdone]) hsettled, htrace]
    simp [frameEvents]

end Sys2Proof.Machine
